-- ==== Sys2Proof/Word.lean ====
section
/-! DEFINITION. The word types of PV-PITCH (00_scope.md R10, R11, R15): a register is 32 bits, a sample 16 bits, and the
host's addresses count bytes. -/

namespace Sys2Proof

/-- A host register or a command word: a 32-bit pattern (R10, R14). -/
abbrev Word := BitVec 32

/-- A buffer element: the 16-bit two's-complement pattern of one sample (R15). -/
abbrev Sample := BitVec 16

/-- One byte of the host's byte-addressed space (20_memory.md R44). -/
abbrev Byte := BitVec 8

end Sys2Proof
end

