-- ==== Sys2Proof/Config.lean ====
section
/-! DEFINITION. What a build of the block fixes (00_scope.md R7, R8) and the values the spec leaves free (10_state.md R38,
20_memory.md R52). -/

namespace Sys2Proof

/-- `CLIMB_SEED`: which samples seed the climbing direction (R7; 41_pitch_detector.md R89). -/
inductive ClimbSeed where
  | inputFrame
  | levelWindow
  deriving DecidableEq, Repr

/-- `TIE_REF`: which mode the tie-break compares with (R7; 41_pitch_detector.md R97). -/
inductive TieRef where
  | prevLevelMode
  | lastConfirmedMode
  deriving DecidableEq, Repr

/-- The implementation parameters of R7. A build fixes them; the block shows them in its parameter registers
(10_state.md R31). -/
structure Params where
  maxLevels : Nat
  maxWindow : Nat
  maxFrequency : Nat
  /-- a binary32 pattern -/
  octaveTol : Word
  climbSeed : ClimbSeed
  tieRef : TieRef
  deriving DecidableEq, Repr

/-- The reference configuration of R9, "chosen for testing only". The build that `State.reset` is of: DESIGN CHOICE,
notes/assumptions/2.md; unsafe. -/
def Config.reference : Params where
  maxLevels := 6
  maxWindow := 1024
  maxFrequency := 3000
  octaveTol := 0x40A00000
  climbSeed := .inputFrame
  tieRef := .prevLevelMode

/-- The sample rates a command accepts are 1 to this (41_pitch_detector.md R81, 43_pitch_shifter.md R114). -/
def Config.maxSampleRate : Nat := 2 ^ 24

/-- The shortest frame length (R8). -/
def Config.minFrameLength : Nat := 4

/-- One level's state: its mode (0 if none) and the counts of maxima and minima (41_pitch_detector.md R99). -/
structure LevelState where
  mode : Nat
  nMax : Nat
  nMin : Nat
  deriving DecidableEq, Repr, Inhabited

/-- The detector's scratch state, which the host cannot see (10_state.md R38). -/
structure Scratch where
  /-- the analysis window AW -/
  aw : List Int
  /-- the peak index list -/
  maxIdx : List Nat
  /-- the valley index list -/
  minIdx : List Nat
  /-- the candidate distance list -/
  cand : List Nat
  /-- the per-level scalars -/
  levels : List LevelState
  deriving DecidableEq, Repr, Inhabited

/-- FREE VALUE: what the scratch holds between commands, "unspecified and unobservable" (R38; 93_implementation_defined.md
S1). No body: nothing can be proved of it. notes/assumptions/3.md; safe. -/
opaque Config.freeScratch : Nat → Scratch

/-- FREE VALUE: what a host read other than of STATUS returns while BUSY = 1 (20_memory.md R52; S2). No body.
notes/assumptions/4.md; safe. -/
opaque Config.freeBusRead : Nat → Word

end Sys2Proof
end

