-- ==== Sys2Proof/Syntax.lean ====
section
/-! DEFINITION. The command set (30_encoding.md R63): one constructor for each row of spec/opcode_table.json. -/

namespace Sys2Proof

/-- The thirteen commands of R63. A command has no register or immediate field (R62): its operands are the values of
ARG0, ARG1 and ARG2 when it is issued. -/
inductive Instr where
  /-- 0x00 (44_system.md R122) -/
  | nop
  /-- 0x01 (40_q15_arithmetic.md R74) -/
  | q15mul
  /-- 0x02 (R75) -/
  | q15addw
  /-- 0x03 (R76) -/
  | q15adds
  /-- 0x10 (41_pitch_detector.md R78) -/
  | detConfig
  /-- 0x11 (R82) -/
  | detEst
  /-- 0x12 (42_smoothing.md R106) -/
  | detEstMed
  /-- 0x13 (R107) -/
  | detEstLast
  /-- 0x14 (R108) -/
  | detEstOct
  /-- 0x15 (R109) -/
  | detEstRob
  /-- 0x20 (43_pitch_shifter.md R110) -/
  | shfConfig
  /-- 0x21 (R112) -/
  | shfCorrect
  /-- 0xFF (44_system.md R123) -/
  | sreset
  deriving DecidableEq, Repr

end Sys2Proof
end

