-- ==== Sys2Proof/HostSyntax.lean ====
section
/-! DEFINITION. The host's side of the port as syntax: the registers and buffers by name (10_state.md section 2, section 5),
the host events a step performs (20_memory.md R47, R48; 70_reset_and_hazards.md R137), and the lines and
pseudo-instructions of a host program (30_encoding.md R66, R67). -/

namespace Sys2Proof

/-- The host-visible registers of 10_state.md section 2. -/
inductive Reg where
  | cmd | arg0 | arg1 | arg2 | res | status | detLevels | detN | shfN | lastFreq | lastMode | heldFreq | ringPtr
  | ring0 | ring1 | ring2 | ring3 | ring4 | pMaxLevels | pMaxWindow | pMaxFreq | pOctTol | pOptions
  deriving DecidableEq, Repr

/-- The sample buffers of 10_state.md R34 to R37. -/
inductive Buf where
  | frame | hist | acc | win
  deriving DecidableEq, Repr

/-- What can happen at the block's port: a host access of `n` bytes at a byte address (R14, R48), a `wait` line, which
performs no access in the model (R68), and the platform's reset input (R137). -/
inductive HostEvent where
  | read (addr n : Nat)
  | write (addr n : Nat) (v : Word)
  | wait
  | hardReset
  deriving DecidableEq, Repr

/-- The three written forms of a value (R66): a decimal, taken mod 2^32; a hexadecimal word; and `f:<decimal>`, here the
decimal `± digits / 10^scale`, standing for its binary32 pattern (notes/assumptions/16.md). -/
inductive Value where
  | dec (z : Int)
  | hex (w : Word)
  | flt (neg : Bool) (digits scale : Nat)
  deriving DecidableEq, Repr

/-- A line of a host program (R66). -/
inductive Line where
  | wr (r : Reg) (v : Value)
  | wrs (i : Nat) (v : Value)
  | rd (r : Reg)
  | rds (b : Buf) (i : Nat)
  | cmd (i : Instr)
  | cmdWord (v : Value)
  | wait
  deriving DecidableEq, Repr

/-- The pseudo-instructions of R67. -/
inductive Pseudo where
  | nop
  | sreset
  | q15mul (a b : Value)
  | q15addw (a b : Value)
  | q15adds (a b : Value)
  | detConfig (lv n : Value)
  | detEst (fs : Value)
  | detEstMed (fs : Value)
  | detEstLast (fs : Value)
  | detEstOct (fs : Value)
  | detEstRob (fs : Value)
  | shfConfig (n : Value)
  | shfCorrect (fs fin fdes : Value)
  | frameLoad (vs : List Value)
  deriving DecidableEq, Repr

end Sys2Proof
end

