-- ==== Sys2Proof/WellFormed.lean ====
section
/-! DEFINITION. Which terms are well formed: a build's parameters (00_scope.md R7), a command word (30_encoding.md R61,
R64), a host access (20_memory.md R47) and a line of a host program (30_encoding.md R66). -/

namespace Sys2Proof

/-- A binary32 pattern of a finite number at least 0 (R7's range of OCTAVE_TOL). The pattern of -0.0, a number equal to 0,
is one (notes/assumptions/14.md). -/
def finiteNonneg (w : Word) : Bool :=
  w.toNat < 0x7F800000 || w.toNat == 0x80000000

/-- The legal ranges of R7's table. -/
def Params.legal (p : Params) : Bool :=
  (1 ≤ p.maxLevels && p.maxLevels ≤ 15) && (8 ≤ p.maxWindow && p.maxWindow ≤ 2048) &&
    (1 ≤ p.maxFrequency && p.maxFrequency ≤ 2 ^ 24) && finiteNonneg p.octaveTol

/-- A command term carries no field (R62), so every term of `Instr` is well formed: there is nothing to check. -/
def Instr.wf : Instr → Bool := fun _ => true

/-- The opcodes R63 assigns. -/
def assignedOpcodes : List Nat :=
  [0x00, 0x01, 0x02, 0x03, 0x10, 0x11, 0x12, 0x13, 0x14, 0x15, 0x20, 0x21, 0xFF]

/-- The legal command words (R61, R64): bits 31:8 are 0 and bits 7:0 are an assigned opcode. -/
def commandWordWf (w : Word) : Bool :=
  w.toNat / 2 ^ 8 == 0 && assignedOpcodes.contains (w.toNat % 2 ^ 8)

/-- A buffer's length in samples (10_state.md R34 to R37). -/
def Buf.length (p : Params) : Buf → Nat
  | .frame => p.maxWindow
  | .hist => 2 * p.maxWindow
  | .acc => 2 * p.maxWindow
  | .win => p.maxWindow

/-- A register the host can write and that is not CMD (10_state.md R21). -/
def Reg.isArg : Reg → Bool
  | .arg0 | .arg1 | .arg2 => true
  | _ => false

/-- R66's side conditions on a line: `wr` names ARG0, ARG1 or ARG2, and an element index lies inside its buffer. -/
def Line.wf (p : Params) : Line → Bool
  | .wr r _ => r.isArg
  | .wrs i _ => i < Buf.length p .frame
  | .rds b i => i < Buf.length p b
  | .rd _ | .cmd _ | .cmdWord _ | .wait => true

end Sys2Proof
end

