-- ==== Sys2Proof/Decode.lean ====
section
/-! DEFINITION. Decoding a command word (30_encoding.md R61, R63, R64), total on every word and rejecting by name, and
after it the encoder. -/

namespace Sys2Proof

/-- Why a command word is illegal (R61). Both reasons raise ILLEGAL_CMD. -/
inductive DecodeReject where
  /-- `w[31:8] != 0` -/
  | reservedBitsSet
  /-- `w[7:0]` is not an opcode of R63 -/
  | unassignedOpcode
  deriving DecidableEq, Repr

/-- The opcode map of R63. -/
def instrOfOpcode : Nat → Option Instr
  | 0x00 => some .nop
  | 0x01 => some .q15mul
  | 0x02 => some .q15addw
  | 0x03 => some .q15adds
  | 0x10 => some .detConfig
  | 0x11 => some .detEst
  | 0x12 => some .detEstMed
  | 0x13 => some .detEstLast
  | 0x14 => some .detEstOct
  | 0x15 => some .detEstRob
  | 0x20 => some .shfConfig
  | 0x21 => some .shfCorrect
  | 0xFF => some .sreset
  | _ => none

/-- The field `rsv`, bits 31:8 of a command word (30_encoding.md section 2). -/
def rsvField (w : Word) : BitVec 24 := w.extractLsb' 8 24

/-- The field `op`, bits 7:0 of a command word. -/
def opField (w : Word) : BitVec 8 := w.extractLsb' 0 8

/-- R61: the reserved field is examined first, then the opcode. -/
def decodeWord (w : Word) : Except DecodeReject Instr :=
  if rsvField w ≠ 0 then .error .reservedBitsSet
  else
    match instrOfOpcode (opField w).toNat with
    | some i => .ok i
    | none => .error .unassignedOpcode

/-- The command a word stands for, or none if the word is illegal. -/
def decode (w : Word) : Option Instr :=
  match decodeWord w with
  | .ok i => some i
  | .error _ => none

/-- The command an instruction's bits stand for, numbered as spec/opcode_table.json numbers them. Every command is one
32-bit word (R65), so no word of more bits is one. -/
def decodeTableWord (nbits w : Nat) : Option Instr :=
  if w % 2 ^ nbits < 2 ^ 32 then decode (BitVec.ofNat 32 (w % 2 ^ nbits)) else none

/-- The opcode of a command (R63). -/
def opcode : Instr → BitVec 8
  | .nop => 0x00
  | .q15mul => 0x01
  | .q15addw => 0x02
  | .q15adds => 0x03
  | .detConfig => 0x10
  | .detEst => 0x11
  | .detEstMed => 0x12
  | .detEstLast => 0x13
  | .detEstOct => 0x14
  | .detEstRob => 0x15
  | .shfConfig => 0x20
  | .shfCorrect => 0x21
  | .sreset => 0xFF

/-- The command word of a command: `rsv` zero above the opcode (30_encoding.md section 2). -/
def encode (i : Instr) : Word := (0 : BitVec 24) ++ opcode i

end Sys2Proof
end

