-- ==== Sys2Proof/Machine/State.lean ====
section
/-! DEFINITION. The machine's state as plain data (10_state.md), the reasons a step can stop, and the state after reset
(10_state.md R43, 70_reset_and_hazards.md R137). -/

namespace Sys2Proof.Machine

/-- The fault causes of 60_exceptions.md R124. The reserved codes 10 to 15 are never recorded, so they have no name. -/
inductive Cause where
  | none
  | illegalCmd
  | detUnconfigured
  | detBadConfig
  | badSampleRate
  | shfUnconfigured
  | badPitch
  | psolaWindow
  | psolaRange
  | cmdWhileBusy
  deriving DecidableEq, Repr

/-- The fields of STATUS (10_state.md R24). The word the host reads is `statusWord`. -/
structure Status where
  busy : Bool
  fault : Bool
  detCfg : Bool
  shfCfg : Bool
  conf : Bool
  cause : Cause
  deriving DecidableEq, Repr

/-- The median ring's five slots RING0 to RING4, binary32 patterns (10_state.md R30). -/
structure Ring where
  r0 : Word
  r1 : Word
  r2 : Word
  r3 : Word
  r4 : Word
  deriving DecidableEq, Repr

/-- The buffers FRAME, HIST, ACC and WIN as one byte memory over the host address map (20_memory.md R45): the bytes that
are not 0, at strictly rising addresses. A byte that is not listed reads 0, the reset contents the spec gives (R43). -/
abbrev Memory := List Host.Cell

/-- The canonical form: addresses strictly rise and no entry holds what an unlisted address reads. -/
abbrev Memory.wf (m : Memory) : Prop :=
  m.Pairwise (fun c d => c.1 < d.1) ∧ ∀ c ∈ m, c.2 ≠ 0

/-- The host beside the block (00_scope.md R6): its program, the position in it, which plays the part of a program counter
(10_state.md R32, 30_encoding.md R69), and the values its reads have returned, latest first (the MODEL's own field,
notes/assumptions/9.md). -/
structure HostSide where
  program : List HostEvent
  position : Nat
  reads : List Word
  deriving DecidableEq, Repr

/-- The whole state: the registers of 10_state.md section 2, the buffers of section 5, the detector's scratch of section 6,
the build's parameters (R31) and the host's side. -/
structure State where
  arg0 : Word
  arg1 : Word
  arg2 : Word
  res : Word
  status : Status
  detLevels : Word
  detN : Word
  shfN : Word
  lastFreq : Word
  lastMode : Word
  heldFreq : Word
  ringPtr : Word
  ring : Ring
  params : Params
  mem : Memory
  scratch : Scratch
  /-- the MODEL's own: which free value comes next (notes/assumptions/3.md, 4.md) -/
  freeCount : Nat
  host : HostSide
  deriving DecidableEq, Repr

/-- The reasons a step can stop with a fault. There are none: a precondition violation of the spec is a next state whose
STATUS reports it (60_exceptions.md R126), and no host access faults (20_memory.md R48). Nobody raises one; safe. -/
inductive Fault where
  deriving DecidableEq, Repr

/-- The reasons a step can be refused. -/
inductive Refusal where
  /-- Raised by an arm of `exec` whose instruction has no meaning yet, and by nothing else; safe. No arm of this model
  raises it. -/
  | notModelled (mnemonic : String)
  deriving DecidableEq, Repr

/-- What a step answers. -/
abbrev Result := Host.Outcome State Fault Refusal

/-- STATUS after reset: "not busy, not faulted, both units unconfigured, CONF 0, CAUSE 0" (R43). -/
def Status.reset : Status where
  busy := false
  fault := false
  detCfg := false
  shfCfg := false
  conf := false
  cause := .none

/-- The ring after reset and after DET_CONFIG: every slot +0.0 (R30, R43). -/
def Ring.zero : Ring := ⟨0, 0, 0, 0, 0⟩

/-- The scratch of `State.reset`. The spec leaves it unspecified (R43): DESIGN CHOICE, notes/assumptions/3.md; unsafe. -/
def Scratch.reset : Scratch := ⟨[], [], [], [], []⟩

/-- The host's side before it has a program: DESIGN CHOICE, notes/assumptions/1.md. -/
def HostSide.reset : HostSide := ⟨[], 0, []⟩

/-- The block of a build with parameters `p` right after reset (R43). -/
def State.resetWith (p : Params) : State where
  arg0 := 0
  arg1 := 0
  arg2 := 0
  res := 0
  status := .reset
  detLevels := 0
  detN := 0
  shfN := 0
  lastFreq := 0
  lastMode := 0
  heldFreq := 0
  ringPtr := 0
  ring := .zero
  params := p
  mem := []
  scratch := Scratch.reset
  freeCount := 0
  host := .reset

/-- The machine right after reset, for the build of the reference configuration (R9; notes/assumptions/2.md). -/
def State.reset : State := State.resetWith Config.reference

end Sys2Proof.Machine
end

