-- ==== Sys2Proof/Machine/Flags.lean ====
section
/-! DEFINITION. The block's flags: the code of a cause (60_exceptions.md R124) and the STATUS word (10_state.md R24). There
are no arithmetic flags (R33). -/

namespace Sys2Proof.Machine

/-- The code of a cause in STATUS.CAUSE (60_exceptions.md R124). -/
def causeCode : Cause → BitVec 4
  | .none => 0
  | .illegalCmd => 1
  | .detUnconfigured => 2
  | .detBadConfig => 3
  | .badSampleRate => 4
  | .shfUnconfigured => 5
  | .badPitch => 6
  | .psolaWindow => 7
  | .psolaRange => 8
  | .cmdWhileBusy => 9

/-- One flag bit. -/
def flagBit (b : Bool) : BitVec 1 := BitVec.ofBool b

/-- The STATUS word (R24): CAUSE in bits 11:8, CONF, SHF_CFG, DET_CFG, FAULT and BUSY in bits 4 to 0; the reserved bits
31:12 and 7:5 read 0. -/
def statusWord (t : Status) : Word :=
  (0 : BitVec 20) ++ causeCode t.cause ++ (0 : BitVec 3) ++ flagBit t.conf ++ flagBit t.shfCfg ++ flagBit t.detCfg ++
    flagBit t.fault ++ flagBit t.busy

/-- The word of P_OPTIONS: bit 0 CLIMB_SEED, bit 1 TIE_REF, bits 31:2 zero (10_state.md section 2). -/
def optionsWord (p : Params) : Word :=
  (0 : BitVec 30) ++ flagBit (p.tieRef == .lastConfirmedMode) ++ flagBit (p.climbSeed == .levelWindow)

end Sys2Proof.Machine
end

