-- ==== Sys2Proof/Machine/Memory.lean ====
section
/-! DEFINITION. The buffers' memory: one byte, one sample, one buffer element, and the ranges a command clears or copies
(10_state.md R34 to R37, 20_memory.md R45). -/

namespace Sys2Proof.Machine

/-- The byte at an address; a byte that is not listed reads 0 (R43). -/
def Memory.byteAt : Memory → Nat → Byte
  | [], _ => 0
  | (a, v) :: m, x => if a = x then v else Memory.byteAt m x

/-- The memory with byte `v` at address `x`, in canonical form: a byte 0 is not listed. -/
def Memory.setByte (x : Nat) (v : Byte) : Memory → Memory
  | [] => if v = 0 then [] else [(x, v)]
  | (a, w) :: m =>
    if x < a then (if v = 0 then (a, w) :: m else (x, v) :: (a, w) :: m)
    else if x = a then (if v = 0 then m else (x, v) :: m)
    else (a, w) :: Memory.setByte x v m

/-- The memory with every byte of `[lo, hi)` 0. -/
def Memory.clearRange (lo hi : Nat) (m : Memory) : Memory :=
  m.filter (fun c => decide (c.1 < lo) || decide (hi ≤ c.1))

/-- Where a buffer's region starts (20_memory.md R45). -/
def bufBase : Buf → Nat
  | .frame => 0x1000
  | .hist => 0x2000
  | .acc => 0x4000
  | .win => 0x6000

/-- The byte address of element `i` of a buffer (R45). -/
def elemAddr (b : Buf) (i : Nat) : Nat := bufBase b + 2 * i

/-- Element `i` of a buffer. The order of its two bytes is not observable (R49); low byte first: DESIGN CHOICE,
notes/assumptions/5.md. -/
def readElem (m : Memory) (b : Buf) (i : Nat) : Sample :=
  Memory.byteAt m (elemAddr b i + 1) ++ Memory.byteAt m (elemAddr b i)

/-- `BUF[i] <- v`. -/
def writeElem (b : Buf) (i : Nat) (v : Sample) (m : Memory) : Memory :=
  Memory.setByte (elemAddr b i) (v.extractLsb' 0 8) (Memory.setByte (elemAddr b i + 1) (v.extractLsb' 8 8) m)

/-- The integer value of element `i` of a buffer, `sext_16` of its pattern (00_scope.md R15). -/
def sampleAt (m : Memory) (b : Buf) (i : Nat) : Int := (readElem m b i).toInt

/-- `BUF[0 .. n-1] <- 0`. -/
def clearElems (b : Buf) (n : Nat) (m : Memory) : Memory :=
  Memory.clearRange (bufBase b) (bufBase b + 2 * n) m

/-- `for i = 0 to n-1: body i`, in ascending order of `i`. -/
def forUp {α : Type} : Nat → (Nat → α → α) → α → α
  | 0, _, a => a
  | n + 1, body, a => body n (forUp n body a)

/-- `for i = 0 to n-1: dst[dj + i] <- src[sj + i]`. -/
def copyElems (dst : Buf) (dj : Nat) (src : Buf) (sj n : Nat) (m : Memory) : Memory :=
  forUp n (fun i m => writeElem dst (dj + i) (readElem m src (sj + i)) m) m

end Sys2Proof.Machine
end

