-- ==== Sys2Proof/Machine/Float.lean ====
section
/-! DEFINITION. IEEE 754 binary32 (00_scope.md R13; 93_implementation_defined.md K1): patterns, values, and the operations
with round-to-nearest-even. Subnormals are kept. What R13 names and does not define is the standard's: PRESUMED,
notes/assumptions/7.md.

Every finite binary32 is an integer multiple of 2^-149, the smallest subnormal. `F32.finite neg mag` is the value
`± mag * 2^-149`, so that all arithmetic below is exact on integers until the one rounding. -/

namespace Sys2Proof.Machine

/-- A binary32 value. A NaN's payload is not kept: no rule depends on it (K1). -/
inductive F32 where
  | nan
  | inf (neg : Bool)
  | finite (neg : Bool) (mag : Nat)
  deriving DecidableEq, Repr

/-- `fromBits32(w)` (R13): sign in bit 31, biased exponent in bits 30:23, fraction in bits 22:0. -/
def F32.ofBits (w : Word) : F32 :=
  let neg := decide (2 ^ 31 ≤ w.toNat)
  let e := w.toNat / 2 ^ 23 % 2 ^ 8
  let f := w.toNat % 2 ^ 23
  if e = 255 then (if f = 0 then .inf neg else .nan)
  else if e = 0 then .finite neg f
  else .finite neg (2 ^ (e - 1) * (2 ^ 23 + f))

/-- The integer nearest to `n / d`, a tie to the even one. -/
def roundHalfEven (n d : Nat) : Nat :=
  if d < 2 * (n % d) ∨ (2 * (n % d) = d ∧ n / d % 2 = 1) then n / d + 1 else n / d

/-- How many binary places the unit in the last place of `a / b` lies above 2^-149: the significand has 24 bits. -/
def ulpShift (a b : Nat) : Nat := (a / b).log2 - 23

/-- The pattern, without its sign, of `(a / b) * 2^-149` rounded to nearest-even. The rounded significand added to its
exponent field carries into the exponent when it rounds up to 2^24; what reaches 2^128 is infinity. -/
def roundMag (a b : Nat) : Nat :=
  min (2 ^ 23 * ulpShift a b + roundHalfEven a (b * 2 ^ ulpShift a b)) 0x7F800000

/-- A sign and a magnitude pattern as one word. -/
def F32.pack (neg : Bool) (m : Nat) : Word := BitVec.ofNat 32 ((if neg then 2 ^ 31 else 0) + m)

/-- `(± a / b) * 2^-149` rounded to binary32. -/
def F32.round (neg : Bool) (a b : Nat) : F32 := F32.ofBits (F32.pack neg (roundMag a b))

/-- `bits32(f)` (R13). A NaN has the pattern 0x7FC00000; no path of the model asks for it (notes/assumptions/7.md). -/
def F32.toBits : F32 → Word
  | .nan => 0x7FC00000
  | .inf neg => F32.pack neg 0x7F800000
  | .finite neg mag => F32.pack neg (roundMag mag 1)

/-- `f32(n)` for a natural number `n` (R13). -/
def F32.ofNat (n : Nat) : F32 := F32.round false (2 ^ 149 * n) 1

/-- `finite(f)`: neither a NaN nor an infinity (R13). -/
def F32.isFinite : F32 → Bool
  | .finite _ _ => true
  | _ => false

/-- A finite value in units of 2^-149, signed; none for a NaN or an infinity. -/
def F32.scaled : F32 → Option Int
  | .finite neg mag => some (if neg then -(mag : Int) else mag)
  | _ => none

/-- The value with its sign changed. -/
def F32.neg : F32 → F32
  | .nan => .nan
  | .inf s => .inf (!s)
  | .finite s m => .finite (!s) m

/-- The binary32 of an exact sum in units of 2^-149; an exact zero sum is +0.0 unless both operands are negative. -/
def F32.ofSum (bothNeg : Bool) (z : Int) : F32 :=
  if z = 0 then .finite bothNeg 0 else F32.round (decide (z < 0)) z.natAbs 1

/-- `f32_add` (R13). -/
def F32.add : F32 → F32 → F32
  | .nan, _ => .nan
  | _, .nan => .nan
  | .inf s, .inf t => if s = t then .inf s else .nan
  | .inf s, .finite _ _ => .inf s
  | .finite _ _, .inf t => .inf t
  | .finite s m, .finite t n =>
    F32.ofSum (s && t) ((if s then -(m : Int) else m) + (if t then -(n : Int) else n))

/-- `f32_sub` (R13). -/
def F32.sub (x y : F32) : F32 := F32.add x (F32.neg y)

/-- `f32_mul` (R13). -/
def F32.mul : F32 → F32 → F32
  | .nan, _ => .nan
  | _, .nan => .nan
  | .inf s, .inf t => .inf (s != t)
  | .inf s, .finite t n => if n = 0 then .nan else .inf (s != t)
  | .finite s m, .inf t => if m = 0 then .nan else .inf (s != t)
  | .finite s m, .finite t n => F32.round (s != t) (m * n) (2 ^ 149)

/-- `f32_div` (R13). -/
def F32.div : F32 → F32 → F32
  | .nan, _ => .nan
  | _, .nan => .nan
  | .inf _, .inf _ => .nan
  | .inf s, .finite t _ => .inf (s != t)
  | .finite s _, .inf t => .finite (s != t) 0
  | .finite s m, .finite t n =>
    if n = 0 then (if m = 0 then .nan else .inf (s != t)) else F32.round (s != t) (2 ^ 149 * m) n

/-- The value 1.0. -/
def F32.one : F32 := F32.ofNat 1

/-- A finite value strictly above 0 (43_pitch_shifter.md R114: not a NaN, not an infinity, not `<= 0`). -/
def F32.isPositive : F32 → Bool
  | .finite false mag => mag != 0
  | _ => false

/-- The value is a zero of either sign. -/
def F32.isZero : F32 → Bool
  | .finite _ mag => mag == 0
  | _ => false

/-- `ceil` of the real value of a finite binary32 (R13); 0 for the values it does not apply to. -/
def F32.ceil (x : F32) : Int :=
  match F32.scaled x with
  | some z => -((-z) / 2 ^ 149)
  | none => 0

/-- `round` of the real value of a finite binary32: the nearest integer, halves away from zero (R13); 0 for the values it
does not apply to. -/
def F32.roundAway (x : F32) : Int :=
  match F32.scaled x with
  | some z => if 0 ≤ z then (2 * z + 2 ^ 149) / 2 ^ 150 else -((2 * (-z) + 2 ^ 149) / 2 ^ 150)
  | none => 0

/-- Where a value stands in the numeric order (42_smoothing.md R105), in units of 2^-149; the infinities lie outside every
finite value, and a NaN, which no ring slot ever holds, above them. -/
def F32.orderKey : F32 → Int
  | .nan => 2 ^ 279
  | .inf neg => if neg then -(2 ^ 278) else 2 ^ 278
  | .finite neg mag => if neg then -(mag : Int) else mag

end Sys2Proof.Machine
end

