-- ==== Sys2Proof/Machine/Operands.lean ====
section
/-! DEFINITION. The integer primitives of 00_scope.md R12 and the four readings of an operand register (30_encoding.md
R62). -/

namespace Sys2Proof.Machine

/-- `s16(ARGi)`: `sext_16` of bits 15:0; bits 31:16 are ignored (30_encoding.md R62). -/
def s16 (w : Word) : Int := (w.extractLsb' 0 16).toInt

/-- `s32(ARGi)` (R62). -/
def s32 (w : Word) : Int := w.toInt

/-- `u32(ARGi)` (R62). -/
def u32 (w : Word) : Nat := w.toNat

/-- `f32(ARGi)`: the binary32 value of the pattern (R62). -/
def f32 (w : Word) : F32 := F32.ofBits w

/-- `wrap16(a)`: the integer of [-32768, 32767] congruent to `a` modulo 2^16 (00_scope.md R12). -/
def wrap16 (a : Int) : Int := (a + 32768) % 65536 - 32768

/-- `bits16(r)`: the 16-bit pattern of `r` (R12). -/
def bits16 (r : Int) : Sample := BitVec.ofInt 16 r

/-- `sext_32(bits16(r))`, as R63 writes a Q15 result to RES. -/
def sext32OfBits16 (r : Int) : Word := (bits16 r).signExtend 32

/-- `trunc0(a / b)` for `b > 0`: the quotient truncated toward zero (R12). -/
def trunc0Div (a b : Int) : Int := Int.tdiv a b

/-- `clamp(v, lo, hi)` is `max(lo, min(v, hi))` on integers (41_pitch_detector.md R79). -/
def clamp (v lo hi : Int) : Int := max lo (min v hi)

/-- `{hi[15:0], lo[15:0]}`: concatenation with `hi` in the high bits (R11). -/
def halves (hi lo : Nat) : Word := BitVec.ofNat 16 hi ++ BitVec.ofNat 16 lo

end Sys2Proof.Machine
end

