-- ==== Sys2Proof/Machine/Ops.lean ====
section
/-! DEFINITION. The named operations over the state: register writes, fault entry and the reset event that leaves the fault
state (60_exceptions.md R126 to R128, 70_reset_and_hazards.md R137), and the registers as the host reads them
(10_state.md section 2). -/

namespace Sys2Proof.Machine

/-- `R[RES] <- v` (10_state.md R22). -/
def State.setRes (v : Word) (s : State) : State := { s with res := v }

/-- `STATUS.CONF <- b` (R24). -/
def State.setConf (b : Bool) (s : State) : State := { s with status := { s.status with conf := b } }

/-- `R[HELD_FREQ] <- v` (R29). -/
def State.setHeld (v : Word) (s : State) : State := { s with heldFreq := v }

/-- The buffers replaced. -/
def State.setMem (m : Memory) (s : State) : State := { s with mem := m }

/-- `RING[k] <- v`; the ring has five slots (R30). -/
def Ring.set (k : Nat) (v : Word) (r : Ring) : Ring :=
  match k with
  | 0 => { r with r0 := v }
  | 1 => { r with r1 := v }
  | 2 => { r with r2 := v }
  | 3 => { r with r3 := v }
  | 4 => { r with r4 := v }
  | _ => r

/-- The five slots, RING0 first. -/
def Ring.toList (r : Ring) : List Word := [r.r0, r.r1, r.r2, r.r3, r.r4]

/-- `Push(v)`: `RING[RING_PTR] <- v`, then `RING_PTR <- (RING_PTR + 1) mod 5` (41_pitch_detector.md R102). -/
def State.push (v : Word) (s : State) : State :=
  { s with
    ring := s.ring.set s.ringPtr.toNat v
    ringPtr := BitVec.ofNat 32 ((s.ringPtr.toNat + 1) % 5) }

/-- LAST_MODE and LAST_FREQ take a confirmed pitch (41_pitch_detector.md R100). -/
def State.recordPitch (mode freq : Word) (s : State) : State := { s with lastMode := mode, lastFreq := freq }

/-- After an estimate the scratch holds anything: a free value (10_state.md R38). -/
def State.forgetScratch (s : State) : State :=
  { s with scratch := Config.freeScratch s.freeCount, freeCount := s.freeCount + 1 }

/-- The writes of a DET_CONFIG that does not fault, but for RES (41_pitch_detector.md R78). -/
def State.configureDetector (levels n : Nat) (s : State) : State :=
  { s with
    detLevels := BitVec.ofNat 32 levels
    detN := BitVec.ofNat 32 n
    status := { s.status with detCfg := true, conf := false }
    lastFreq := 0
    lastMode := 0
    heldFreq := 0
    ring := .zero
    ringPtr := 0 }

/-- The writes of a SHF_CONFIG to its registers and flag, but for RES (43_pitch_shifter.md R110). -/
def State.configureShifter (n : Nat) (s : State) : State :=
  { s with shfN := BitVec.ofNat 32 n, status := { s.status with shfCfg := true } }

/-- Fault entry, `raise Fault(c)` (60_exceptions.md R126): FAULT and CAUSE are written, BUSY is cleared, nothing else
changes (R127). -/
def takeFault (c : Cause) (s : State) : State :=
  { s with status := { s.status with fault := true, cause := c, busy := false } }

/-- `ResetEvent()` (70_reset_and_hazards.md R137): every piece of the block's state takes its reset value. The parameters
are constant, the scratch is unspecified, and the host beside the block is not reset (notes/assumptions/3.md, 18.md). -/
def resetEvent (s : State) : State :=
  { State.resetWith s.params with
    scratch := Config.freeScratch s.freeCount
    freeCount := s.freeCount + 1
    host := s.host }

/-- While FAULTED a command is ignored (60_exceptions.md R128); otherwise it runs. -/
def unlessFaulted (s : State) (run : Result) : Result :=
  if s.status.fault then .next s else run

/-- ARG0, ARG1 and ARG2 by number (20_memory.md R48). -/
def State.setArg (k : Nat) (v : Word) (s : State) : State :=
  match k with
  | 0 => { s with arg0 := v }
  | 1 => { s with arg1 := v }
  | 2 => { s with arg2 := v }
  | _ => s

/-- A register's offset (10_state.md section 2). -/
def regOffset : Reg → Nat
  | .cmd => 0x000
  | .arg0 => 0x004
  | .arg1 => 0x008
  | .arg2 => 0x00C
  | .res => 0x010
  | .status => 0x014
  | .detLevels => 0x018
  | .detN => 0x01C
  | .shfN => 0x020
  | .lastFreq => 0x024
  | .lastMode => 0x028
  | .heldFreq => 0x02C
  | .ringPtr => 0x030
  | .ring0 => 0x034
  | .ring1 => 0x038
  | .ring2 => 0x03C
  | .ring3 => 0x040
  | .ring4 => 0x044
  | .pMaxLevels => 0x048
  | .pMaxWindow => 0x04C
  | .pMaxFreq => 0x050
  | .pOctTol => 0x054
  | .pOptions => 0x058

/-- The register at an offset, if one is there. -/
def regAtOffset : Nat → Option Reg
  | 0x000 => some .cmd
  | 0x004 => some .arg0
  | 0x008 => some .arg1
  | 0x00C => some .arg2
  | 0x010 => some .res
  | 0x014 => some .status
  | 0x018 => some .detLevels
  | 0x01C => some .detN
  | 0x020 => some .shfN
  | 0x024 => some .lastFreq
  | 0x028 => some .lastMode
  | 0x02C => some .heldFreq
  | 0x030 => some .ringPtr
  | 0x034 => some .ring0
  | 0x038 => some .ring1
  | 0x03C => some .ring2
  | 0x040 => some .ring3
  | 0x044 => some .ring4
  | 0x048 => some .pMaxLevels
  | 0x04C => some .pMaxWindow
  | 0x050 => some .pMaxFreq
  | 0x054 => some .pOctTol
  | 0x058 => some .pOptions
  | _ => none

/-- What a register reads as (10_state.md section 2); CMD has no storage and reads 0 (R23). -/
def readReg (s : State) : Reg → Word
  | .cmd => 0
  | .arg0 => s.arg0
  | .arg1 => s.arg1
  | .arg2 => s.arg2
  | .res => s.res
  | .status => statusWord s.status
  | .detLevels => s.detLevels
  | .detN => s.detN
  | .shfN => s.shfN
  | .lastFreq => s.lastFreq
  | .lastMode => s.lastMode
  | .heldFreq => s.heldFreq
  | .ringPtr => s.ringPtr
  | .ring0 => s.ring.r0
  | .ring1 => s.ring.r1
  | .ring2 => s.ring.r2
  | .ring3 => s.ring.r3
  | .ring4 => s.ring.r4
  | .pMaxLevels => BitVec.ofNat 32 s.params.maxLevels
  | .pMaxWindow => BitVec.ofNat 32 s.params.maxWindow
  | .pMaxFreq => BitVec.ofNat 32 s.params.maxFrequency
  | .pOctTol => s.params.octaveTol
  | .pOptions => optionsWord s.params

/-- The buffer element at a byte address: an even address inside a buffer, below its last element's end (20_memory.md
R45, R47). -/
def elemAtAddr (p : Params) (addr : Nat) : Option (Buf × Nat) :=
  if addr % 2 ≠ 0 then none
  else if 0x1000 ≤ addr ∧ addr < 0x1000 + 2 * p.maxWindow then some (.frame, (addr - 0x1000) / 2)
  else if 0x2000 ≤ addr ∧ addr < 0x2000 + 4 * p.maxWindow then some (.hist, (addr - 0x2000) / 2)
  else if 0x4000 ≤ addr ∧ addr < 0x4000 + 4 * p.maxWindow then some (.acc, (addr - 0x4000) / 2)
  else if 0x6000 ≤ addr ∧ addr < 0x6000 + 2 * p.maxWindow then some (.win, (addr - 0x6000) / 2)
  else none

/-- `MemRead(addr, n)` (20_memory.md R48): a register, a buffer element, or 0 for any other access. -/
def memRead (s : State) (addr n : Nat) : Word :=
  if n = 4 then
    match regAtOffset addr with
    | some r => readReg s r
    | none => 0
  else if n = 2 then
    match elemAtAddr s.params addr with
    | some (b, i) => (readElem s.mem b i).setWidth 32
    | none => 0
  else 0

/-- `MemWrite(addr, n, v)` but for the write that issues a command (20_memory.md R48): ARG0 to ARG2, an element of FRAME,
or no effect. -/
def memWriteData (addr n : Nat) (v : Word) (s : State) : State :=
  if n = 4 then
    match regAtOffset addr with
    | some .arg0 => s.setArg 0 v
    | some .arg1 => s.setArg 1 v
    | some .arg2 => s.setArg 2 v
    | _ => s
  else if n = 2 then
    match elemAtAddr s.params addr with
    | some (.frame, i) => s.setMem (writeElem .frame i (v.extractLsb' 0 16) s.mem)
    | _ => s
  else s

/-- The host's position moves to its next line (30_encoding.md R69). -/
def State.advance (s : State) : State := { s with host := { s.host with position := s.host.position + 1 } }

/-- A host read delivers its value to the host. -/
def State.logRead (v : Word) (s : State) : State := { s with host := { s.host with reads := v :: s.host.reads } }

/-- A host read (20_memory.md R48, R51). While BUSY = 1, which no run reaches, a read other than of STATUS returns an
unspecified value (R52): a free value, notes/assumptions/4.md. -/
def hostRead (addr n : Nat) (s : State) : State :=
  if s.status.busy && !(addr == regOffset .status && n == 4) then
    { s.logRead (Config.freeBusRead s.freeCount) with freeCount := s.freeCount + 1 }
  else s.logRead (memRead s addr n)

end Sys2Proof.Machine
end

