-- ==== Sys2Proof/Machine/Estimate.lean ====
section
/-! DEFINITION. The pitch detector's core estimate (41_pitch_detector.md R83 to R103), one definition per step of the
rule's procedure. -/

namespace Sys2Proof.Machine

/-- `x[i] = sext_16(FRAME[i])` for `i < n`, which the analysis window starts as (R84). -/
def frameSamples (m : Memory) (n : Nat) : List Int := (List.range n).map (sampleAt m .frame)

/-- `max(x[0..N-1])` of the samples themselves; it does not start from 0 (R84). -/
def globalMax : List Int → Int
  | [] => 0
  | x :: xs => xs.foldl max x

/-- `min(x[0..N-1])` (R84). -/
def globalMin : List Int → Int
  | [] => 0
  | x :: xs => xs.foldl min x

/-- `mean = trunc0(sum / N)` (R85). -/
def meanOf (xs : List Int) : Int := trunc0Div xs.sum xs.length

/-- `trunc0(mean + (3/4) * (extreme - mean))`, exact before it is truncated (R86). -/
def threshold (mean extreme : Int) : Int := trunc0Div (4 * mean + 3 * (extreme - mean)) 4

/-- `Halve(W)`: the floor averages of the adjacent pairs; a last odd sample is not read (R87). -/
def halve : List Int → List Int
  | a :: b :: rest => (b + a) / 2 :: halve rest
  | _ => []

/-- `MinDist(fs, L) = max(1, (fs div MAX_FREQUENCY) >> (L+1))` (R88). -/
def minDist (p : Params) (fs l : Nat) : Nat := max 1 (fs / p.maxFrequency / 2 ^ (l + 1))

/-- The climbing direction: +1, -1, or 0 while none is known (R89). -/
inductive Climb where
  | up
  | down
  | unknown
  deriving DecidableEq, Repr

/-- The direction of a first difference (R89). -/
def climbOf (d : Int) : Climb := if 0 < d then .up else if d < 0 then .down else .unknown

/-- `AW[1] - AW[0]` of a window, or `x[1] - x[0]` of a frame (R89). -/
def firstDifference : List Int → Int
  | a :: b :: _ => b - a
  | _ => 0

/-- The seed of the climbing direction, from the samples CLIMB_SEED names (R89). -/
def climbSeed (p : Params) (frame window : List Int) : Climb :=
  match p.climbSeed with
  | .inputFrame => climbOf (firstDifference frame)
  | .levelWindow => climbOf (firstDifference window)

/-- What `Walk` carries from sample to sample (R89 to R92). -/
structure Walker where
  climb : Climb
  armed : Bool
  refr : Nat
  maxIdx : List Nat
  minIdx : List Nat
  deriving DecidableEq, Repr

/-- What `Walk` compares with: the level's refractory distance, the call's mean and its thresholds (R86, R88). -/
structure WalkLimits where
  md : Nat
  mean : Int
  maxThr : Int
  minThr : Int
  deriving DecidableEq, Repr

/-- The candidate extremum at index `k - 1` is recorded if it clears its threshold, the flag is armed and the refractory
counter is 0 (R90, R93). -/
def recordExtremum (c : WalkLimits) (k : Nat) (prev d : Int) (w : Walker) : Walker :=
  if w.climb = .up ∧ d < 0 then
    if c.maxThr ≤ prev ∧ w.armed ∧ w.refr = 0 then
      { w with maxIdx := w.maxIdx ++ [k - 1], armed := false, refr := c.md }
    else w
  else if w.climb = .down ∧ 0 < d then
    if prev ≤ c.minThr ∧ w.armed ∧ w.refr = 0 then
      { w with minIdx := w.minIdx ++ [k - 1], armed := false, refr := c.md }
    else w
  else w

/-- The direction after a difference: a plateau leaves it (R90). -/
def climbAfter (d : Int) (c : Climb) : Climb := if 0 < d then .up else if d < 0 then .down else c

/-- The halved signal crosses the mean between two samples (R91). -/
def crossing (mean prev cur : Int) : Bool :=
  (decide (prev < mean) && decide (mean ≤ cur)) || (decide (mean < prev) && decide (cur ≤ mean))

/-- One step `k` of `Walk`, its actions in the order of R93. -/
def walkStep (c : WalkLimits) (k : Nat) (prev cur : Int) (w : Walker) : Walker :=
  let d := cur - prev
  let w := recordExtremum c k prev d w
  { w with
    climb := climbAfter d w.climb
    armed := w.armed || crossing c.mean prev cur
    refr := w.refr - 1 }

/-- The steps `k, k+1, …` of `Walk`; `prev` is `AW[k-1]` and the list holds `AW[k], AW[k+1], …`. -/
def walkFrom (c : WalkLimits) : Nat → Int → List Int → Walker → Walker
  | _, _, [], w => w
  | k, prev, cur :: rest, w => walkFrom c (k + 1) cur rest (walkStep c k prev cur w)

/-- `Walk` over a level's window (R93). -/
def walk (c : WalkLimits) (seed : Climb) : List Int → Walker
  | [] => ⟨seed, false, 0, [], []⟩
  | a :: rest => walkFrom c 1 a rest ⟨seed, false, 0, [], []⟩

/-- The gaps between peaks `s` places apart in an index list, in ascending order of the first (R94). -/
def gaps (s : Nat) (idx : List Nat) : List Nat := List.zipWith (fun later earlier => later - earlier) (idx.drop s) idx

/-- The candidate list `D`: span outermost, maxima before minima (R94). -/
def candidates (maxIdx minIdx : List Nat) : List Nat :=
  gaps 1 maxIdx ++ gaps 1 minIdx ++ (gaps 2 maxIdx ++ gaps 2 minIdx) ++ (gaps 3 maxIdx ++ gaps 3 minIdx)

/-- `abs(a - b) <= md`. -/
def near (md a b : Nat) : Bool := decide (((a : Int) - b).natAbs ≤ md)

/-- `count(k)`: how many other positions of `D` hold a value within `md` of `D[k] = d` (R95). -/
def supportCount (md : Nat) (D : List Nat) (k d : Nat) : Nat :=
  (D.zipIdx.filter (fun e => e.2 != k && near md e.1 d)).length

/-- The support check `4 * c > (W div D[k])` (R96). -/
def supported (w c d : Nat) : Bool := decide (w / d < 4 * c)

/-- The tie-break predicate (R97); `prev` is the previous level's state, none at level 0. -/
def tie (p : Params) (lastMode : Word) (md : Nat) (prev : Option LevelState) (d : Nat) : Bool :=
  if ~~~lastMode = 0 then false
  else
    match p.tieRef with
    | .prevLevelMode =>
      match prev with
      | none => false
      | some l => l.mode != 0 && near md d (2 * l.mode)
    | .lastConfirmedMode => lastMode.toNat != 0 && near md d (2 * lastMode.toNat)

/-- One position of the pass that chooses the raw mode; the pair is `(best, bestCount)` (R96). -/
def chooseStep (md w : Nat) (D : List Nat) (isTie : Nat → Bool) (b : Nat × Nat) (e : Nat × Nat) : Nat × Nat :=
  let c := supportCount md D e.2 e.1
  let sup := supported w c e.1
  if b.2 < c ∧ sup then (e.1, c)
  else if c = b.2 ∧ sup ∧ isTie e.1 then (e.1, b.2)
  else b

/-- The raw mode: one pass over `D` in order (R96). -/
def rawMode (md w : Nat) (D : List Nat) (isTie : Nat → Bool) : Nat :=
  (D.zipIdx.foldl (chooseStep md w D isTie) (0, 0)).1

/-- The refinement: the floor average of the candidates within `md` of the raw mode, or 0 if there is none (R98). -/
def refine (md : Nat) (D : List Nat) (best : Nat) : Nat :=
  if best = 0 then 0
  else
    let S := D.filter (fun e => near md e best)
    S.sum / S.length

/-- `Mode` of a level whose window has `w` samples (R94 to R98). -/
def modeOf (md w : Nat) (maxIdx minIdx : List Nat) (isTie : Nat → Bool) : Nat :=
  if 2 ≤ maxIdx.length ∧ 2 ≤ minIdx.length then
    let D := candidates maxIdx minIdx
    refine md D (rawMode md w D isTie)
  else 0

/-- What one call fixes for all its levels: the frame and what `Stats` computes from it, the sample rate, the build and
LAST_MODE, which only the tie-break reads (R83, R104). -/
structure Call where
  params : Params
  fs : Nat
  lastMode : Word
  frame : List Int
  mean : Int
  maxThr : Int
  minThr : Int
  deriving DecidableEq, Repr

/-- `Stats()` and the rest of what a call fixes (R84 to R86). -/
def callOf (p : Params) (fs : Nat) (lastMode : Word) (frame : List Int) : Call where
  params := p
  fs := fs
  lastMode := lastMode
  frame := frame
  mean := meanOf frame
  maxThr := threshold (meanOf frame) (globalMax frame)
  minThr := threshold (meanOf frame) (globalMin frame)

/-- The state of level `l`, whose halved window is `aw` (R83, R99). -/
def levelState (c : Call) (l : Nat) (aw : List Int) (prev : Option LevelState) : LevelState :=
  let md := minDist c.params c.fs l
  let w := walk ⟨md, c.mean, c.maxThr, c.minThr⟩ (climbSeed c.params c.frame aw) aw
  { mode := modeOf md aw.length w.maxIdx w.minIdx (tie c.params c.lastMode md prev)
    nMax := w.maxIdx.length
    nMin := w.minIdx.length }

/-- Confirmation (R100); there is no previous level at level 0. -/
def confirms (md : Nat) (prev : Option LevelState) (cur : LevelState) : Bool :=
  match prev with
  | none => false
  | some l =>
    decide (2 ≤ l.nMax) && decide (2 ≤ l.nMin) && l.mode != 0 && cur.mode != 0 && near md l.mode (2 * cur.mode)

/-- What the level scan yields: the previous level's mode and the level that confirmed it, or none. -/
inductive Scan where
  | confirmed (mode level : Nat)
  | pitchless
  deriving DecidableEq, Repr

/-- The loop over levels `l, l+1, …`, `k` of them left; `aw` is the window before this level's halving (R83). -/
def scanLevels (c : Call) : Nat → Nat → List Int → Option LevelState → Scan
  | 0, _, _, _ => .pitchless
  | k + 1, l, aw, prev =>
    let aw := halve aw
    let cur := levelState c l aw prev
    if confirms (minDist c.params c.fs l) prev cur then
      match prev with
      | some q => .confirmed q.mode l
      | none => .pitchless
    else scanLevels c k (l + 1) aw (some cur)

/-- `Freq(fs, pm, L)`: two binary32 divisions in the source's order (R101). -/
def freqOf (fs pm l : Nat) : Word :=
  (F32.div (F32.div (F32.ofNat fs) (F32.ofNat pm)) (F32.ofNat (2 ^ l))).toBits

/-- What the level scan finds for the frame, rate and configuration that stand in the state (R83). -/
def scanOf (fs : Nat) (s : State) : Scan :=
  let frame := frameSamples s.mem s.detN.toNat
  scanLevels (callOf s.params fs s.lastMode frame) s.detLevels.toNat 0 frame none

/-- The state after `ConfirmPitch` (R100) or `Pitchless` (R103), and the frequency either returns. -/
def settleScan (fs : Nat) (r : Scan) (s : State) : Word × State :=
  match r with
  | .confirmed pm l =>
    let f := freqOf fs pm l
    (f, ((s.recordPitch (BitVec.ofNat 32 pm) f).push f).setConf true)
  | .pitchless => (0, (s.push 0).setConf false)

/-- `Estimate(fs)` (R83): its result as a binary32 pattern, and the state it leaves. -/
def estimate (fs : Nat) (s : State) : Word × State :=
  let r := settleScan fs (scanOf fs s) s
  (r.1, r.2.forgetScratch)

/-- The preconditions of every estimate command, in order (R81). -/
def estimateCheck (s : State) : Option Cause :=
  if s.status.detCfg = false then some .detUnconfigured
  else if u32 s.arg0 < 1 ∨ Config.maxSampleRate < u32 s.arg0 then some .badSampleRate
  else none

/-- What the five estimate commands share: the checks, one core estimate, then the policy's result from the raw estimate
and the state it left (41_pitch_detector.md R82, 42_smoothing.md). -/
def estimateCommand (policy : Word → State → State) (s : State) : Result :=
  unlessFaulted s <|
    match estimateCheck s with
    | some c => .next (takeFault c s)
    | none => .next (policy (estimate (u32 s.arg0) s).1 (estimate (u32 s.arg0) s).2)

end Sys2Proof.Machine
end

