-- ==== Sys2Proof/Machine/Detector.lean ====
section
/-! DEFINITION. The pitch detector's commands DET_CONFIG and DET_EST (41_pitch_detector.md R78 to R82). -/

namespace Sys2Proof.Machine

/-- The level count after clamping: `clamp(s32(ARG0), 0, MAX_LEVELS)` (R78, R79). -/
def clampedLevels (s : State) : Nat := (clamp (s32 s.arg0) 0 s.params.maxLevels).toNat

/-- A frame length after clamping: `clamp(n, 4, MAX_WINDOW)` (R78; 43_pitch_shifter.md R111). -/
def clampedLength (p : Params) (n : Int) : Nat := (clamp n Config.minFrameLength p.maxWindow).toNat

/-- `DetConfigValid(levels, N)`: no levels, or `N mod 2^(levels-1) = 0` and `N >> levels >= 4` (R80). -/
def detConfigValid (levels n : Nat) : Bool :=
  levels == 0 || (n % 2 ^ (levels - 1) == 0 && decide (4 ≤ n / 2 ^ levels))

/-- DET_CONFIG (R78). -/
def execDetConfig (s : State) : Result :=
  unlessFaulted s <|
    let levels := clampedLevels s
    let n := clampedLength s.params (s32 s.arg1)
    if detConfigValid levels n then .next ((s.configureDetector levels n).setRes (halves n levels))
    else .next (takeFault .detBadConfig s)

/-- DET_EST: RES takes the raw estimate (R82). -/
def execDetEst (s : State) : Result := estimateCommand (fun raw t => t.setRes raw) s

end Sys2Proof.Machine
end

