-- ==== Sys2Proof/Machine/Q15Ops.lean ====
section
/-! DEFINITION. The Q15 primitives (40_q15_arithmetic.md R70 to R72), which the Q15 commands and the shifter share. -/

namespace Sys2Proof.Machine

/-- `q15mul(x, y)`: the exact product plus half a unit, shifted down 15 places with floor, narrowed to 16 bits (R70). -/
def q15mul (x y : Int) : Int := wrap16 ((x * y + 0x4000) / 2 ^ 15)

/-- `q15addw(x, y)`: the sum modulo 2^16 (R71). -/
def q15addw (x y : Int) : Int := wrap16 (x + y)

/-- `q15adds(x, y)`: the exact sum clamped to ±0x7FFFFFFF, then narrowed to 16 bits (R72). -/
def q15adds (x y : Int) : Int := wrap16 (min (max (x + y) (-0x7FFFFFFF)) 0x7FFFFFFF)

end Sys2Proof.Machine
end

