-- ==== Sys2Proof/Machine/Q15.lean ====
section
/-! DEFINITION. The Q15 commands (40_q15_arithmetic.md R74 to R76). -/

namespace Sys2Proof.Machine

/-- What the three share: `R[RES] <- sext_32(bits16(op(s16(ARG0), s16(ARG1))))`, and nothing else (section 2). -/
def q15Command (op : Int → Int → Int) (s : State) : Result :=
  unlessFaulted s (.next (s.setRes (sext32OfBits16 (op (s16 s.arg0) (s16 s.arg1)))))

/-- Q15MUL (R74). -/
def execQ15mul (s : State) : Result := q15Command q15mul s

/-- Q15ADDW (R75). -/
def execQ15addw (s : State) : Result := q15Command q15addw s

/-- Q15ADDS (R76). -/
def execQ15adds (s : State) : Result := q15Command q15adds s

end Sys2Proof.Machine
end

