-- ==== Sys2Proof/Machine/Psola.lean ====
section
/-! DEFINITION. The pitch shifter's procedures (43_pitch_shifter.md R113 to R118). -/

namespace Sys2Proof.Machine

/-- `scalingFactor = 1 + (fin - fdes)/fdes`, one binary32 operation at a time (R113). -/
def scalingFactor (fin fdes : F32) : F32 := F32.add F32.one (F32.div (F32.sub fin fdes) fdes)

/-- `q = f32(fs) / fin` (R113). -/
def periodQuotient (fs : Nat) (fin : F32) : F32 := F32.div (F32.ofNat fs) fin

/-- `S = ceil(q)`, the analysis shift (R113). -/
def analysisShift (q : F32) : Nat := (F32.ceil q).toNat

/-- `Sh = round(S / 2) = (S + 1) div 2` (R113). -/
def halfShift (s : Nat) : Nat := (s + 1) / 2

/-- `L = S + Sh + 1`, the window length (R113). -/
def windowLength (s : Nat) : Nat := s + halfShift s + 1

/-- `f32(S) * sf`, which is rounded to the synthesis shift (R113). -/
def shiftProduct (s : Nat) (sf : F32) : F32 := F32.mul (F32.ofNat s) sf

/-- The shift parameters that passed the checks: `S`, `Sh`, `Ss`, `L` and `K` (R112). -/
structure Shift where
  s : Nat
  sh : Nat
  ss : Nat
  l : Nat
  k : Nat
  deriving DecidableEq, Repr

/-- The parameters that follow from the analysis shift, the synthesis shift and the frame length (R113). -/
def shiftOf (s ss n : Nat) : Shift := ⟨s, halfShift s, ss, windowLength s, n / s⟩

/-- The highest accumulator index the overlap-add reaches: `(K-1)*Ss + S + Sh - 1` (R114). -/
def lastAccIndex (p : Shift) : Nat := (p.k - 1) * p.ss + p.s + p.sh - 1

/-- `ShiftChecks`: the first fault that applies, before any state changes, or the parameters (R114). -/
def shiftChecks (s : State) : Except Cause Shift :=
  let n := s.shfN.toNat
  let fs := u32 s.arg0
  let fin := f32 s.arg1
  let fdes := f32 s.arg2
  if s.status.shfCfg = false then .error .shfUnconfigured
  else if fs < 1 ∨ Config.maxSampleRate < fs then .error .badSampleRate
  else if !fin.isPositive || !fdes.isPositive then .error .badPitch
  else
    let q := periodQuotient fs fin
    let sa := analysisShift q
    if !q.isFinite || decide (n < windowLength sa) then .error .psolaWindow
    else
      let x := shiftProduct sa (scalingFactor fin fdes)
      let p := shiftOf sa x.roundAway.toNat n
      if !x.isFinite || decide (65535 < p.ss) || decide (2 * n ≤ lastAccIndex p) then .error .psolaRange
      else .ok p

/-- `SlideHistory()` (R115). -/
def slideHistory (n : Nat) (m : Memory) : Memory :=
  copyElems .hist n .frame 0 n (copyElems .hist 0 .hist n n m)

/-- The middle of a window of length `l`: `h` of R116. -/
def windowHalf (l : Nat) : Nat := if l % 2 = 1 then (l - 1) / 2 else l / 2

/-- The ramp's slope increment (R116). -/
def windowInc (l : Nat) : Nat := if l % 2 = 1 then 0x7FFF / windowHalf l else 2 * 0x7FFF / (l - 1)

/-- `w[n]` of R116: the ramp, the forced peak (one sample for an odd length, two for an even one), and the mirrored
second half. -/
def windowValue (l n : Nat) : Nat :=
  let h := windowHalf l
  if n = h ∨ (l % 2 = 0 ∧ n + 1 = h) then 0x7FFF
  else if n < h then n * windowInc l
  else (l - 1 - n) * windowInc l

/-- `BuildWindow(L)` writes WIN[0 .. L-1] (R116). -/
def buildWindow (l : Nat) (m : Memory) : Memory :=
  forUp l (fun n m => writeElem .win n (bits16 (windowValue l n)) m) m

/-- One accumulation of the overlap-add: history index `a + i` against window sample `i`, into ACC[si + i]; an index
outside HIST is skipped (R117). -/
def accumulate (n : Nat) (a : Int) (si i : Nat) (m : Memory) : Memory :=
  if 0 ≤ a + i ∧ a + i < 2 * n then
    writeElem .acc (si + i)
      (bits16 (q15addw (sampleAt m .acc (si + i)) (q15mul (sampleAt m .hist (a + i).toNat) (sampleAt m .win i)))) m
  else m

/-- One pass: an analysis block of `S + Sh` samples from analysis index `a` at synthesis index `si` (R117). -/
def overlapPass (n len : Nat) (a : Int) (si : Nat) (m : Memory) : Memory :=
  forUp len (fun i m => accumulate n a si i m) m

/-- `OverlapAdd`: the passes `j = 0 .. K-1` at analysis index `-1 + j*S` and synthesis index `j*Ss`. The loop of R117 runs
while `a <= N - S - 1`, which is these `K = N div S` passes (R113; notes/assumptions/11.md). -/
def overlapAdd (n : Nat) (p : Shift) (m : Memory) : Memory :=
  forUp p.k (fun j m => overlapPass n (p.s + p.sh) ((j : Int) * p.s - 1) (j * p.ss) m) m

/-- `WriteBack()` (R118). -/
def writeBack (n : Nat) (m : Memory) : Memory := clearElems .acc n (copyElems .frame 0 .acc 0 n m)

/-- The buffers after one SHF_CORRECT with frame length `n` (R112). -/
def correctFrame (n : Nat) (p : Shift) (m : Memory) : Memory :=
  writeBack n (overlapAdd n p (buildWindow p.l (slideHistory n m)))

end Sys2Proof.Machine
end

