-- ==== Sys2Proof/Machine/Shifter.lean ====
section
/-! DEFINITION. The pitch shifter's commands SHF_CONFIG and SHF_CORRECT (43_pitch_shifter.md R110 to R112). -/

namespace Sys2Proof.Machine

/-- HIST, ACC and WIN with every element 0 (R110). -/
def clearShifterBuffers (p : Params) (m : Memory) : Memory :=
  clearElems .win p.maxWindow (clearElems .acc (2 * p.maxWindow) (clearElems .hist (2 * p.maxWindow) m))

/-- SHF_CONFIG (R110, R111). -/
def execShfConfig (s : State) : Result :=
  unlessFaulted s <|
    let n := clampedLength s.params (s32 s.arg0)
    .next (((s.configureShifter n).setMem (clearShifterBuffers s.params s.mem)).setRes (BitVec.ofNat 32 n))

/-- SHF_CORRECT (R112). -/
def execShfCorrect (s : State) : Result :=
  unlessFaulted s <|
    match shiftChecks s with
    | .error c => .next (takeFault c s)
    | .ok p => .next ((s.setMem (correctFrame s.shfN.toNat p s.mem)).setRes (halves p.ss p.s))

end Sys2Proof.Machine
end

