-- ==== Sys2Proof/Machine/Smoothing.lean ====
section
/-! DEFINITION. The temporal smoothing policies (42_smoothing.md R105 to R109). -/

namespace Sys2Proof.Machine

/-- A word's place in the numeric order of binary32 values (R105). -/
def orderKey (w : Word) : Int := F32.orderKey (F32.ofBits w)

/-- A word put into a list that rises in numeric order. -/
def insertOrdered (w : Word) : List Word → List Word
  | [] => [w]
  | v :: vs => if orderKey w ≤ orderKey v then w :: v :: vs else v :: insertOrdered w vs

/-- The words of a list in numeric order. -/
def sortOrdered : List Word → List Word
  | [] => []
  | w :: ws => insertOrdered w (sortOrdered ws)

/-- `Median5()`: the third-smallest of the five slots, equal values counted separately (R105). -/
def median5 (r : Ring) : Word := (sortOrdered r.toList).getD 2 0

/-- R108's test, on exact reals: `new` lies within the tolerance of exactly double or exactly half `old`. With values in
units of 2^-149, both sides are doubled so that `old / 2` is an integer. A pattern that is not finite, which no run
reaches, passes no test (notes/assumptions/8.md). -/
def octaveJump (new old tol : Word) : Bool :=
  match F32.scaled (f32 new), F32.scaled (f32 old), F32.scaled (f32 tol) with
  | some a, some b, some t => decide (((2 * a - 4 * b).natAbs : Int) ≤ 2 * t) || decide (((2 * a - b).natAbs : Int) ≤ 2 * t)
  | _, _, _ => false

/-- The octave-invariant policy (R108): keep the held value on an octave jump, else hold the new one. -/
def octavePolicy (raw : Word) (t : State) : State :=
  if octaveJump raw t.heldFreq t.params.octaveTol then t.setRes t.heldFreq else (t.setHeld raw).setRes raw

/-- The robust policy's result (R109): the median, but LAST_FREQ if both the raw value and the median are zero. -/
def robustResult (raw : Word) (t : State) : Word :=
  if !F32.isZero (f32 raw) then median5 t.ring
  else if !F32.isZero (f32 (median5 t.ring)) then median5 t.ring
  else t.lastFreq

/-- DET_EST_MED (R106). -/
def execDetEstMed (s : State) : Result := estimateCommand (fun _ t => t.setRes (median5 t.ring)) s

/-- DET_EST_LAST (R107). -/
def execDetEstLast (s : State) : Result := estimateCommand (fun _ t => t.setRes t.lastFreq) s

/-- DET_EST_OCT (R108). -/
def execDetEstOct (s : State) : Result := estimateCommand octavePolicy s

/-- DET_EST_ROB (R109). -/
def execDetEstRob (s : State) : Result := estimateCommand (fun raw t => t.setRes (robustResult raw t)) s

end Sys2Proof.Machine
end

