-- ==== Sys2Proof/Machine/System.lean ====
section
/-! DEFINITION. The system commands NOP and SRESET (44_system.md). -/

namespace Sys2Proof.Machine

/-- NOP: no effect, also while FAULTED (R122). -/
def execNop (s : State) : Result := unlessFaulted s (.next s)

/-- SRESET: the reset event, carried out even while FAULTED (R123). -/
def execSreset (s : State) : Result := .next (resetEvent s)

end Sys2Proof.Machine
end

