-- ==== Sys2Proof/Machine/Dispatch.lean ====
section
/-! DEFINITION. Each command's meaning (30_encoding.md R60, R63): one arm per constructor of `Instr`. -/

namespace Sys2Proof.Machine

def exec (i : Instr) (s : State) : Host.Outcome State Fault Refusal :=
  match i with
  -- system commands (44_system.md)
  | .nop => Sys2Proof.Machine.execNop s
  -- Q15 commands (40_q15_arithmetic.md)
  | .q15mul => Sys2Proof.Machine.execQ15mul s
  | .q15addw => Sys2Proof.Machine.execQ15addw s
  | .q15adds => Sys2Proof.Machine.execQ15adds s
  -- pitch detector (41_pitch_detector.md)
  | .detConfig => Sys2Proof.Machine.execDetConfig s
  | .detEst => Sys2Proof.Machine.execDetEst s
  -- smoothing policies (42_smoothing.md)
  | .detEstMed => Sys2Proof.Machine.execDetEstMed s
  | .detEstLast => Sys2Proof.Machine.execDetEstLast s
  | .detEstOct => Sys2Proof.Machine.execDetEstOct s
  | .detEstRob => Sys2Proof.Machine.execDetEstRob s
  -- pitch shifter (43_pitch_shifter.md)
  | .shfConfig => Sys2Proof.Machine.execShfConfig s
  | .shfCorrect => Sys2Proof.Machine.execShfCorrect s
  | .sreset => Sys2Proof.Machine.execSreset s

end Sys2Proof.Machine
end

