-- ==== Sys2Proof/Machine/Port.lean ====
section
/-! DEFINITION. The command port and the host's accesses (20_memory.md R48, R52; 30_encoding.md R60, R69;
60_exceptions.md R125, R128). -/

namespace Sys2Proof.Machine

/-- A CMD write of `w` (30_encoding.md R60). While FAULTED every word but SRESET's is ignored (60_exceptions.md R128), and
a legal command's own meaning says so; an illegal word raises ILLEGAL_CMD (R61). With BUSY = 1, which no run reaches, the
write is the fault CMD_WHILE_BUSY (20_memory.md R52, 60_exceptions.md R125; notes/assumptions/4.md). -/
def issueCommand (w : Word) (s : State) : Result :=
  if s.status.busy then unlessFaulted s (.next (takeFault .cmdWhileBusy s))
  else
    match decode w with
    | some i => exec i s
    | none => unlessFaulted s (.next (takeFault .illegalCmd s))

/-- A host write (20_memory.md R48). While BUSY = 1 a write other than to CMD is ignored (R52). -/
def hostWrite (addr n : Nat) (v : Word) (s : State) : Result :=
  if addr = regOffset .cmd ∧ n = 4 then issueCommand v s
  else if s.status.busy then .next s
  else .next (memWriteData addr n v s)

/-- What one event does to the block. A `wait` performs no access (30_encoding.md R68); the platform's reset has the
effect of SRESET (70_reset_and_hazards.md R137). -/
def performEvent (e : HostEvent) (s : State) : Result :=
  match e with
  | .read addr n => .next (hostRead addr n s)
  | .write addr n v => hostWrite addr n v s
  | .wait => .next s
  | .hardReset => .next (resetEvent s)

/-- The host's next line, executed (30_encoding.md R69): the position moves on and the line's access is performed. Past
the last line the run has ended and the block stays as it is (R148, 60_exceptions.md R136). -/
def runNextEvent (s : State) : Result :=
  match s.host.program[s.host.position]? with
  | some e => performEvent e s.advance
  | none => .next s

end Sys2Proof.Machine
end

