-- ==== Sys2Proof/Machine/Step.lean ====
section
/-! DEFINITION. One step of the machine, and the state whose next step runs a given command word. -/

namespace Sys2Proof.Machine

/-- One step: the host's next line (30_encoding.md R69). -/
def step (s : State) : Host.Outcome State Fault Refusal := runNextEvent s

/-- The host's program is one CMD write of the word, next to run: it stands for the host that loads its program
(notes/assumptions/1.md). -/
def State.withFetchWord (s : State) (nbits w : Nat) : State :=
  { s with
    host := { s.host with
      program := [.write (regOffset .cmd) 4 (BitVec.ofNat 32 (w % 2 ^ nbits))]
      position := 0 } }

end Sys2Proof.Machine
end

