-- ==== Sys2Proof/Safety.lean ====
section
/-! DEFINITION. What a safe run of the block keeps (10_state.md R24, R25, R42; 60_exceptions.md R124, R126), and the terms
the statements use. -/

namespace Sys2Proof.Machine

/-- The host's next event (30_encoding.md R69). -/
abbrev NextEvent (s : State) (e : HostEvent) : Prop := s.host.program[s.host.position]? = some e

/-- The pattern of +0.0 or of a positive finite binary32 (10_state.md R42). -/
abbrev FreqWord (w : Word) : Prop := w.toNat < 0x7F800000

/-- The pattern of a positive finite binary32 (43_pitch_shifter.md R114). -/
abbrev PositiveWord (w : Word) : Prop := 0 < w.toNat ∧ w.toNat < 0x7F800000

/-- The real value of a finite binary32 pattern, exact (00_scope.md R13). -/
def realOf (w : Word) : Option ℚ := (F32.scaled (F32.ofBits w)).map (fun z => (z : ℚ) / 2 ^ 149)

/-- The real value of a pattern; 0 for a pattern that is not finite. -/
def valueOf (w : Word) : ℚ := (realOf w).getD 0

/-- The magnitude, in units of 2^-149, of a finite pattern without its sign. -/
def magOf (k : Nat) : Nat :=
  match F32.ofBits (BitVec.ofNat 32 k) with
  | .finite _ m => m
  | _ => 0

/-- The five commands that run a core estimate (41_pitch_detector.md R81). -/
def estimateCommands : List Instr := [.detEst, .detEstMed, .detEstLast, .detEstOct, .detEstRob]

/-- The commands that may touch the detector's state (10_state.md R41). -/
def detectorCommands : List Instr := .detConfig :: estimateCommands

/-- The commands that may touch the shifter's state (10_state.md R41). -/
def shifterCommands : List Instr := [.shfConfig, .shfCorrect]

/-- The Q15 unit's commands (40_q15_arithmetic.md section 2). -/
def q15Commands : List Instr := [.q15mul, .q15addw, .q15adds]

/-- Byte address `a` belongs to element `i` of buffer `b` (20_memory.md R45). -/
abbrev ByteOf (b : Buf) (i a : Nat) : Prop := a = elemAddr b i ∨ a = elemAddr b i + 1

/-- Byte address `a` belongs to an element that the build's buffers have (20_memory.md R45). -/
abbrev BufferByte (p : Params) (a : Nat) : Prop :=
  bufBase .frame ≤ a ∧ a < bufBase .frame + 2 * Buf.length p .frame ∨
  bufBase .hist ≤ a ∧ a < bufBase .hist + 2 * Buf.length p .hist ∨
  bufBase .acc ≤ a ∧ a < bufBase .acc + 2 * Buf.length p .acc ∨
  bufBase .win ≤ a ∧ a < bufBase .win + 2 * Buf.length p .win

/-- What holds in every state the block reaches. -/
structure Inv (s : State) : Prop where
  /-- the build is one that exists (00_scope.md R7) -/
  params_legal : s.params.legal = true
  /-- the buffers' memory is in canonical form -/
  mem_canonical : s.mem.wf
  /-- and lists only bytes of the buffers (20_memory.md R45) -/
  mem_in_buffers : ∀ c ∈ s.mem, BufferByte s.params c.1
  /-- BUSY reads 0 (10_state.md R24) -/
  not_busy : s.status.busy = false
  /-- CAUSE is NONE exactly while no fault has occurred (60_exceptions.md R124, R126) -/
  fault_iff_cause : s.status.fault = false ↔ s.status.cause = .none
  /-- CMD_WHILE_BUSY cannot occur in the model (60_exceptions.md R124) -/
  cause_occurs : s.status.cause ≠ .cmdWhileBusy
  /-- "While STATUS.DET_CFG = 0 their values are 0" (10_state.md R25); nor is a pitch confirmed -/
  det_unconfigured : s.status.detCfg = false → s.detLevels = 0 ∧ s.detN = 0 ∧ s.status.conf = false
  /-- DET_LEVELS is in [0, MAX_LEVELS] (R42) -/
  det_levels : s.detLevels.toNat ≤ s.params.maxLevels
  /-- DET_N is in [4, MAX_WINDOW] (R42), and the configuration passed its check (41_pitch_detector.md R80) -/
  det_configured : s.status.detCfg = true →
    4 ≤ s.detN.toNat ∧ s.detN.toNat ≤ s.params.maxWindow ∧ detConfigValid s.detLevels.toNat s.detN.toNat = true
  /-- SHF_N is 0 until a SHF_CONFIG writes it (10_state.md R26) -/
  shf_unconfigured : s.status.shfCfg = false → s.shfN = 0
  /-- SHF_N is in [4, MAX_WINDOW] (R42) -/
  shf_configured : s.status.shfCfg = true → 4 ≤ s.shfN.toNat ∧ s.shfN.toNat ≤ s.params.maxWindow
  /-- RING_PTR is in [0, 4] (R42) -/
  ring_ptr : s.ringPtr.toNat ≤ 4
  /-- each RING slot, LAST_FREQ and HELD_FREQ holds +0.0 or a positive finite binary32 (R42) -/
  freqs : ∀ w ∈ s.lastFreq :: s.heldFreq :: s.ring.toList, FreqWord w
  /-- a mode distance is below 2^16 (00_scope.md R10) -/
  last_mode : s.lastMode.toNat < 2 ^ 16
  /-- ACC[0 .. SHF_N-1] is 0 between SHF_CORRECT calls (43_pitch_shifter.md R120) -/
  acc_head : s.status.shfCfg = true → ∀ j < s.shfN.toNat, readElem s.mem .acc j = 0

/-- The state of level `l` of a call, with the state of the level before it (41_pitch_detector.md R83, R87, R99). -/
def levelAt (c : Call) : Nat → LevelState
  | 0 => levelState c 0 (halve c.frame) none
  | l + 1 => levelState c (l + 1) (halve^[l + 2] c.frame) (some (levelAt c l))

/-- Levels `l` and `l + 1` of a call agree on a pitch, so that level `l + 1` confirms it (41_pitch_detector.md R100, with
R88's refractory distance of level `l + 1`). -/
def LevelsAgree (c : Call) (l : Nat) : Prop :=
  2 ≤ (levelAt c l).nMax ∧ 2 ≤ (levelAt c l).nMin ∧ (levelAt c l).mode ≠ 0 ∧ (levelAt c (l + 1)).mode ≠ 0 ∧
    (((levelAt c l).mode : Int) - 2 * (levelAt c (l + 1)).mode).natAbs ≤
      max 1 (c.fs / c.params.maxFrequency / 2 ^ (l + 2))

/-- No difference between indices `m` and `j`: a plateau (41_pitch_detector.md R90). -/
def FlatBetween (x : Nat → Int) (m j : Nat) : Prop := ∀ n, m < n → n ≤ j → x n = x (n - 1)

/-- The samples reach index `j` rising: the last difference that is not 0 is a rise, or there is none and the seed says so
(41_pitch_detector.md R89, R90). -/
def RisingTo (seed : Climb) (x : Nat → Int) (j : Nat) : Prop :=
  (seed = .up ∧ FlatBetween x 0 j) ∨ ∃ m, 1 ≤ m ∧ m ≤ j ∧ x (m - 1) < x m ∧ FlatBetween x m j

/-- The samples reach index `j` falling (41_pitch_detector.md R89, R90). -/
def FallingTo (seed : Climb) (x : Nat → Int) (j : Nat) : Prop :=
  (seed = .down ∧ FlatBetween x 0 j) ∨ ∃ m, 1 ≤ m ∧ m ≤ j ∧ x m < x (m - 1) ∧ FlatBetween x m j

/-- The search flag is armed at index `j`: the mean was crossed at a step up to `j`, and no index from that step on, before
`j`, was accepted (41_pitch_detector.md R91, R93). -/
def ArmedAt (mean : Int) (x : Nat → Int) (accepted : List Nat) (j : Nat) : Prop :=
  ∃ m, 1 ≤ m ∧ m ≤ j ∧ ((x (m - 1) < mean ∧ mean ≤ x m) ∨ (mean < x (m - 1) ∧ x m ≤ mean)) ∧
    ∀ i ∈ accepted, i < j → i < m

/-- The refractory counter is 0 at index `j`: every index accepted before `j` lies at least `md` below it
(41_pitch_detector.md R92, R93). -/
def ElapsedAt (md : Nat) (accepted : List Nat) (j : Nat) : Prop := ∀ i ∈ accepted, i < j → i + md ≤ j

/-- The gaps between indices `g` places apart, in ascending order of the first (41_pitch_detector.md R94). -/
def gapsOf (g : Nat) (idx : List Nat) : List Nat :=
  (List.range (idx.length - g)).map fun i => idx.getD (i + g) 0 - idx.getD i 0

/-- `trunc0(q)`: the integer nearest to a rational in the direction of zero (00_scope.md R12). -/
def truncZero (q : ℚ) : Int := if 0 ≤ q then ⌊q⌋ else ⌈q⌉

/-- The word of a sign and a pattern of 31 bits (00_scope.md R13). -/
def signedWord (neg : Bool) (m : Nat) : Word := BitVec.ofNat 32 ((if neg then 2 ^ 31 else 0) + m)

/-- R117's loop as the rule writes it, with its condition `a <= N - S - 1`, for at most `fuel` passes. -/
def overlapLoop (n : Nat) (p : Shift) : Nat → Int → Nat → Memory → Memory
  | 0, _, _, m => m
  | fuel + 1, a, si, m =>
    if a ≤ (n : Int) - p.s - 1 then
      overlapLoop n p fuel (a + p.s) (si + p.ss) (overlapPass n (p.s + p.sh) a si m)
    else m

/-- The history that an SHF_CORRECT call of frame length `n` analyses: the previous call's frame, then this call's
(43_pitch_shifter.md R115). -/
def slidHistory (n : Nat) (m : Memory) (j : Nat) : Int :=
  if j < n then sampleAt m .hist (n + j) else sampleAt m .frame (j - n)

/-- The sum that the overlap-add puts at synthesis index `j`: every windowed history sample whose pass and place reach it
(43_pitch_shifter.md R117). Sample `i` of pass `k` has history index `k*S - 1 + i`, which is skipped outside HIST. -/
def overlapSum (n : Nat) (p : Shift) (h w : Nat → Int) (j : Nat) : Int :=
  ∑ k ∈ Finset.range p.k, ∑ i ∈ Finset.range (p.s + p.sh),
    if k * p.ss + i = j ∧ 1 ≤ k * p.s + i ∧ k * p.s + i - 1 < 2 * n then q15mul (h (k * p.s + i - 1)) (w i) else 0

end Sys2Proof.Machine
end

