-- ==== Sys2Proof/Certificates/Slice0/Obligations.lean ====
section
/-! DEFINITION. The statements about the machine, from the rules of spec/. Each docstring says which rule a statement
formalises, or that it is the model's choice and which log entry says so. -/

open Sys2Proof Sys2Proof.Machine

/-! ### Command words and steps -/

/-- R61, R63: a word decodes to a command exactly if it is the command's word. -/
def Obligations.DecodeInvertsEncode : Prop :=
  ∀ (w : Word) (i : Instr), decode w = some i ↔ w = encode i

/-- Words written out from R63's table, and words R61 makes illegal. -/
def Obligations.WrittenWordsDecode : Prop :=
  decode 0x00000000 = some .nop ∧ decode 0x00000001 = some .q15mul ∧ decode 0x00000010 = some .detConfig ∧
    decode 0x00000014 = some .detEstOct ∧ decode 0x00000021 = some .shfCorrect ∧ decode 0x000000FF = some .sreset ∧
    decode 0x00000105 = none ∧ decode 0x00000004 = none ∧ decode 0x00000016 = none

/-- R60, R69: when the host's next line writes a command word that decodes to `i`, the step is `exec i`, with the host's
position moved to the next line. -/
def Obligations.StepRunsDecodedCommand : Prop :=
  ∀ (s : State) (w : Word) (i : Instr),
    NextEvent s (.write (regOffset .cmd) 4 w) → s.status.busy = false → decode w = some i →
      step s = exec i { s with host := { s.host with position := s.host.position + 1 } }

/-- R61: a word with a reserved bit set or an opcode that is not assigned raises ILLEGAL_CMD and has no other effect. -/
def Obligations.IllegalWordFaults : Prop :=
  ∀ (s : State) (w : Word),
    NextEvent s (.write (regOffset .cmd) 4 w) → s.status.busy = false → s.status.fault = false →
      (w.toNat / 256 ≠ 0 ∨
        w.toNat % 256 ∉ [0x00, 0x01, 0x02, 0x03, 0x10, 0x11, 0x12, 0x13, 0x14, 0x15, 0x20, 0x21, 0xFF]) →
      step s = .next
        { s with
          status := { s.status with fault := true, cause := .illegalCmd }
          host := { s.host with position := s.host.position + 1 } }

/-- R128: while FAULTED a CMD write of any word but SRESET's changes nothing, and SRESET's resets the block; the position
moves on in both. -/
def Obligations.FaultedBlockIgnoresCommands : Prop :=
  ∀ (s : State) (w : Word),
    s.status.fault = true → s.status.busy = false → NextEvent s (.write (regOffset .cmd) 4 w) →
      (w ≠ 0x000000FF → step s = .next { s with host := { s.host with position := s.host.position + 1 } }) ∧
      (w = 0x000000FF → ∃ t, step s = .next t ∧ t.status = ⟨false, false, false, false, false, .none⟩)

/-- R126, R128: STATUS, and with it FAULT and the first CAUSE, stays until SRESET or a hardware reset. -/
def Obligations.OnlyResetLeavesFaulted : Prop :=
  ∀ s t : State,
    s.status.fault = true → s.status.busy = false → step s = .next t →
      NextEvent s .hardReset ∨ NextEvent s (.write (regOffset .cmd) 4 0x000000FF) ∨ t.status = s.status

/-- R69, R136, R148: past its last line the run has ended and the block stays as it is. That a step then answers the same
state is the model's reading (notes/assumptions/1.md). -/
def Obligations.RunEndsIdle : Prop :=
  ∀ s : State, s.host.program.length ≤ s.host.position → step s = .next s

/-- R60, R64, R48: every line has an effect, so no step stops. That a violation is a next state (60_exceptions.md R126) is the
model's reading (notes/assumptions/17.md, DEDUCED), and that there is a step at all past the host's last line is its choice
(notes/assumptions/1.md, DESIGN CHOICE). -/
def Obligations.StepAlwaysAnswers : Prop :=
  ∀ s : State, ∃ t : State, step s = .next t

/-! ### Reset and the whole machine -/

/-- R43: every piece of state right after reset, for every build; every element of every buffer reads 0. The build of
`State.reset` itself is the model's choice (notes/assumptions/2.md). -/
def Obligations.ResetStateValues : Prop :=
  ∀ p : Params,
    let s := State.resetWith p
    (s.arg0 = 0 ∧ s.arg1 = 0 ∧ s.arg2 = 0 ∧ s.res = 0 ∧ statusWord s.status = 0) ∧
      (s.detLevels = 0 ∧ s.detN = 0 ∧ s.shfN = 0 ∧ s.lastFreq = 0 ∧ s.heldFreq = 0 ∧ s.lastMode = 0) ∧
      s.ringPtr = 0 ∧ s.ring.toList = [0, 0, 0, 0, 0] ∧ (∀ b i, readElem s.mem b i = 0) ∧ s.params = p

/-- R123, R137: SRESET's word is 0x000000FF; SRESET, FAULTED or not, puts every piece of the block's state at its reset value, and a hardware reset has
the same effect. The parameters are constant, the scratch takes any value, and the host is not the block
(notes/assumptions/18.md). -/
def Obligations.SresetResetsTheBlock : Prop :=
  decode 0x000000FF = some .sreset ∧
  ∀ s : State,
    (∃ (sc : Scratch) (k : Nat), exec .sreset s = .next
      { arg0 := 0, arg1 := 0, arg2 := 0, res := 0
        status := ⟨false, false, false, false, false, .none⟩
        detLevels := 0, detN := 0, shfN := 0, lastFreq := 0, lastMode := 0, heldFreq := 0, ringPtr := 0
        ring := ⟨0, 0, 0, 0, 0⟩, params := s.params, mem := [], scratch := sc, freeCount := k, host := s.host }) ∧
    (NextEvent s .hardReset →
      step s = exec .sreset { s with host := { s.host with position := s.host.position + 1 } })

/-- R42, R43: the state of any build that exists is inside the invariant right after reset. -/
def Obligations.ResetMeetsInvariant : Prop :=
  (∀ p : Params, p.legal = true → Inv (State.resetWith p)) ∧ Inv State.reset

/-- R42 and the other invariants `Inv` lists: every step, whatever the host does, keeps them. -/
def Obligations.StepKeepsInvariant : Prop :=
  ∀ s t : State, Inv s → step s = .next t → Inv t

/-- R31: no step changes a parameter, and the five parameter registers read as the parameters of the build. -/
def Obligations.ParametersAreConstant : Prop :=
  ∀ s t : State, step s = .next t →
    t.params = s.params ∧
      readReg t .pMaxLevels = BitVec.ofNat 32 s.params.maxLevels ∧
      readReg t .pMaxWindow = BitVec.ofNat 32 s.params.maxWindow ∧
      readReg t .pMaxFreq = BitVec.ofNat 32 s.params.maxFrequency ∧
      readReg t .pOctTol = s.params.octaveTol ∧
      (readReg t .pOptions).toNat =
        (if s.params.climbSeed = .levelWindow then 1 else 0) + (if s.params.tieRef = .lastConfirmedMode then 2 else 0)

/-- R38: no step reads the scratch an earlier command left: with another scratch the same step answers the same state, but
perhaps for its scratch. -/
def Obligations.ScratchIsNeverRead : Prop :=
  ∀ (s t : State) (sc : Scratch),
    step s = .next t → ∃ sc' : Scratch, step { s with scratch := sc } = .next { t with scratch := sc' }

/-- R127: a command that faults writes FAULT and CAUSE and nothing else, and its cause is one of those of R124. -/
def Obligations.FaultsArePrecise : Prop :=
  ∀ (i : Instr) (s t : State),
    s.status.busy = false → s.status.fault = false → exec i s = .next t → t.status.fault = true →
      t = { s with status := { s.status with fault := true, cause := t.status.cause } } ∧ t.status.cause ≠ .none

/-- R21: no command writes ARG0, ARG1 or ARG2; only reset changes them without a host write. -/
def Obligations.CommandsKeepArguments : Prop :=
  ∀ (i : Instr) (s t : State),
    exec i s = .next t → i ≠ .sreset → t.arg0 = s.arg0 ∧ t.arg1 = s.arg1 ∧ t.arg2 = s.arg2

/-- R41: the detector's state is touched only by the detector's commands and reset, the shifter's only by the shifter's
commands and reset, and the Q15 commands touch only RES. -/
def Obligations.UnitsKeepApart : Prop :=
  ∀ (i : Instr) (s t : State),
    exec i s = .next t → i ≠ .sreset →
      (i ∉ detectorCommands →
        t.detLevels = s.detLevels ∧ t.detN = s.detN ∧ t.status.detCfg = s.status.detCfg ∧
          t.status.conf = s.status.conf ∧ t.lastFreq = s.lastFreq ∧ t.lastMode = s.lastMode ∧
          t.heldFreq = s.heldFreq ∧ t.ring = s.ring ∧ t.ringPtr = s.ringPtr) ∧
      (i ∉ shifterCommands →
        t.shfN = s.shfN ∧ t.status.shfCfg = s.status.shfCfg ∧
          ∀ (b : Buf) (j : Nat), b ≠ .frame → readElem t.mem b j = readElem s.mem b j) ∧
      (i ∈ q15Commands → t = { s with res := t.res })

/-- R34, R104: of the commands, only SHF_CONFIG, SHF_CORRECT and SRESET write a byte of the buffers; no other changes one,
nor a parameter, nor the host's side. -/
def Obligations.OnlyShifterCommandsWriteBuffers : Prop :=
  ∀ (i : Instr) (s t : State),
    exec i s = .next t → i ∉ shifterCommands → i ≠ .sreset →
      (∀ a, Memory.byteAt t.mem a = Memory.byteAt s.mem a) ∧ t.params = s.params ∧ t.host = s.host

/-! ### Host accesses -/

/-- R48's `MemWrite`, but for the write that issues a command: ARG0 to ARG2 and the elements of FRAME take the written
value, and every other write has no effect; the position moves on. In canonical memory the written element reads the value,
every other element and every byte outside it read as before, and the memory stays canonical. -/
def Obligations.HostWritesReachOnlyArgsAndFrame : Prop :=
  ∀ (s : State) (addr n : Nat) (v : Word),
    NextEvent s (.write addr n v) → s.status.busy = false → ¬(addr = 0x000 ∧ n = 4) →
      let u : State := { s with host := { s.host with position := s.host.position + 1 } }
      (n = 4 → addr = 0x004 → step s = .next { u with arg0 := v }) ∧
        (n = 4 → addr = 0x008 → step s = .next { u with arg1 := v }) ∧
        (n = 4 → addr = 0x00C → step s = .next { u with arg2 := v }) ∧
        (∀ i, n = 2 → addr = 0x1000 + 2 * i → i < s.params.maxWindow →
          ∃ m : Memory, step s = .next { u with mem := m } ∧ (s.mem.wf → m.wf ∧
            readElem m .frame i = v.setWidth 16 ∧
            (∀ j, j ≠ i → readElem m .frame j = readElem s.mem .frame j) ∧
            (s.params.maxWindow ≤ 2048 → ∀ (b : Buf) (j : Nat), b ≠ .frame → readElem m b j = readElem s.mem b j) ∧
            ∀ a, a ≠ 0x1000 + 2 * i → a ≠ 0x1000 + 2 * i + 1 → Memory.byteAt m a = Memory.byteAt s.mem a)) ∧
        (¬(n = 4 ∧ (addr = 0x004 ∨ addr = 0x008 ∨ addr = 0x00C)) →
          (∀ i < s.params.maxWindow, ¬(n = 2 ∧ addr = 0x1000 + 2 * i)) → step s = .next u)

/-- R48's `MemRead`, R51, R23, R68: a read gives the register at its offset, the element at its address, or 0, and has no
side effect on the block; a `wait` line performs no access. That the host's side records the value is the model's choice
(notes/assumptions/9.md). -/
def Obligations.HostReadsHaveNoSideEffect : Prop :=
  (∀ s : State, NextEvent s .wait → step s = .next { s with host := { s.host with position := s.host.position + 1 } }) ∧
  ∀ (s : State) (addr n : Nat),
    NextEvent s (.read addr n) → s.status.busy = false → s.params.legal = true →
      ∃ v : Word,
        step s = .next { s with host := { s.host with position := s.host.position + 1, reads := v :: s.host.reads } } ∧
        (∀ r ∈ [(0x000, (0 : Word)), (0x004, s.arg0), (0x008, s.arg1), (0x00C, s.arg2), (0x010, s.res),
            (0x014, statusWord s.status), (0x018, s.detLevels), (0x01C, s.detN), (0x020, s.shfN), (0x024, s.lastFreq),
            (0x028, s.lastMode), (0x02C, s.heldFreq), (0x030, s.ringPtr), (0x034, s.ring.r0), (0x038, s.ring.r1),
            (0x03C, s.ring.r2), (0x040, s.ring.r3), (0x044, s.ring.r4), (0x048, BitVec.ofNat 32 s.params.maxLevels),
            (0x04C, BitVec.ofNat 32 s.params.maxWindow), (0x050, BitVec.ofNat 32 s.params.maxFrequency),
            (0x054, s.params.octaveTol),
            (0x058, BitVec.ofNat 32 ((if s.params.climbSeed = .levelWindow then 1 else 0) +
              if s.params.tieRef = .lastConfirmedMode then 2 else 0))],
          n = 4 → addr = r.1 → v = r.2) ∧
        (∀ r ∈ [(Buf.frame, 0x1000, s.params.maxWindow), (Buf.hist, 0x2000, 2 * s.params.maxWindow),
            (Buf.acc, 0x4000, 2 * s.params.maxWindow), (Buf.win, 0x6000, s.params.maxWindow)],
          ∀ i < r.2.2, n = 2 → addr = r.2.1 + 2 * i → v = (readElem s.mem r.1 i).setWidth 32) ∧
        (¬(n = 4 ∧ addr % 4 = 0 ∧ addr ≤ 0x058) →
          (∀ r ∈ [(0x1000, s.params.maxWindow), (0x2000, 2 * s.params.maxWindow), (0x4000, 2 * s.params.maxWindow),
              (0x6000, s.params.maxWindow)],
            ∀ i < r.2, ¬(n = 2 ∧ addr = r.1 + 2 * i)) → v = 0)

/-- R24, R124: where each field of STATUS stands in the word the host reads, the code of each cause, and that the reserved
bits read 0. -/
def Obligations.StatusWordLayout : Prop :=
  ∀ t : Status,
    (statusWord t).toNat =
      t.busy.toNat + 2 * t.fault.toNat + 4 * t.detCfg.toNat + 8 * t.shfCfg.toNat + 16 * t.conf.toNat +
        256 * (match t.cause with
          | .none => 0
          | .illegalCmd => 1
          | .detUnconfigured => 2
          | .detBadConfig => 3
          | .badSampleRate => 4
          | .shfUnconfigured => 5
          | .badPitch => 6
          | .psolaWindow => 7
          | .psolaRange => 8
          | .cmdWhileBusy => 9)

/-! ### System and Q15 commands -/

/-- R122: NOP has no effect, FAULTED or not, and its word is 0. -/
def Obligations.NopChangesNothing : Prop :=
  decode 0x00000000 = some .nop ∧ ∀ s : State, exec .nop s = .next s

/-- R74: the word of Q15MUL, and its effect: RES takes the product with half a unit added, shifted down 15 places with floor, as a 16-bit pattern sign-extended;
nothing else changes. Bits 31:16 of the operands are ignored. -/
def Obligations.Q15mulWritesRoundedProduct : Prop :=
  decode 0x00000001 = some .q15mul ∧ ∀ s : State, s.status.fault = false →
    exec .q15mul s = .next
      { s with
        res := (BitVec.ofInt 16
          (((s.arg0.setWidth 16).toInt * (s.arg1.setWidth 16).toInt + 0x4000) / 2 ^ 15)).signExtend 32 }

/-- R75: the word of Q15ADDW, and its effect: RES takes the 16-bit sum, wrapped and sign-extended; nothing else changes. -/
def Obligations.Q15addwWrapsTheSum : Prop :=
  decode 0x00000002 = some .q15addw ∧ ∀ s : State, s.status.fault = false →
    exec .q15addw s = .next { s with res := (s.arg0.setWidth 16 + s.arg1.setWidth 16).signExtend 32 }

/-- R76, R73: the "saturating" add equals the wrapped add on every pair of samples, so RES takes the wrapped sum, as
Q15ADDW's does. -/
def Obligations.Q15addsNeverSaturates : Prop :=
  decode 0x00000003 = some .q15adds ∧
  (∀ x y : Int, -32768 ≤ x → x ≤ 32767 → -32768 ≤ y → y ≤ 32767 → q15adds x y = q15addw x y) ∧
  ∀ s : State, s.status.fault = false →
    exec .q15adds s = .next { s with res := (s.arg0.setWidth 16 + s.arg1.setWidth 16).signExtend 32 }

/-- R74's corner cases and R77: the product by -32768 and by 32767, and that the product commutes. -/
def Obligations.Q15mulCornerCases : Prop :=
  ∀ x y : Int, -32768 ≤ x → x ≤ 32767 → -32768 ≤ y → y ≤ 32767 →
    (-32768 ≤ q15mul x y ∧ q15mul x y ≤ 32767) ∧ q15mul x y = q15mul y x ∧ q15mul x 0 = 0 ∧
      q15mul x (-32768) = (if x = -32768 then -32768 else -x) ∧
      q15mul x 32767 = (if x ≤ -16384 then x + 1 else if x ≤ 16384 then x else x - 1) ∧
      (q15mul x y ≠ (x * y + 0x4000) / 2 ^ 15 ↔ x = -32768 ∧ y = -32768)

/-! ### Pitch detector -/

/-- R78, R79, R80: a DET_CONFIG whose clamped operands are valid writes the configuration and clears the cross-call state;
nothing else changes. -/
def Obligations.DetConfigConfigures : Prop :=
  ∀ (s : State) (levels n : Nat), s.status.fault = false →
    (levels : Int) = max 0 (min s.arg0.toInt s.params.maxLevels) →
    (n : Int) = max 4 (min s.arg1.toInt s.params.maxWindow) →
    (levels = 0 ∨ (n % 2 ^ (levels - 1) = 0 ∧ 4 ≤ n / 2 ^ levels)) →
      exec .detConfig s = .next
        { s with
          detLevels := BitVec.ofNat 32 levels
          detN := BitVec.ofNat 32 n
          status := { s.status with detCfg := true, conf := false }
          lastFreq := 0, lastMode := 0, heldFreq := 0, ring := ⟨0, 0, 0, 0, 0⟩, ringPtr := 0
          res := BitVec.ofNat 16 n ++ BitVec.ofNat 16 levels }

/-- R78, R80, R127: a DET_CONFIG whose clamped operands are not valid raises DET_BAD_CONFIG and has no other effect. -/
def Obligations.DetConfigRejects : Prop :=
  ∀ (s : State) (levels n : Nat), s.status.fault = false →
    (levels : Int) = max 0 (min s.arg0.toInt s.params.maxLevels) →
    (n : Int) = max 4 (min s.arg1.toInt s.params.maxWindow) →
    levels ≠ 0 → (n % 2 ^ (levels - 1) ≠ 0 ∨ n / 2 ^ levels < 4) →
      exec .detConfig s = .next
        { s with status := { s.status with fault := true, cause := .detBadConfig, busy := false } }

/-- R81: every estimate command first checks that the detector is configured, then the sample rate; a failed check raises
its fault and has no other effect. -/
def Obligations.EstimateCommandsCheckFirst : Prop :=
  ∀ (i : Instr) (s : State), i ∈ estimateCommands → s.status.fault = false →
    (s.status.detCfg = false →
      exec i s = .next
        { s with status := { s.status with fault := true, cause := .detUnconfigured, busy := false } }) ∧
    (s.status.detCfg = true → (s.arg0.toNat < 1 ∨ 2 ^ 24 < s.arg0.toNat) →
      exec i s = .next
        { s with status := { s.status with fault := true, cause := .badSampleRate, busy := false } })

/-- R82, R100, R102, R103: what DET_EST writes when the level scan confirms a pitch and when it does not: the ring's slots
are a list of five in which the slot at RING_PTR takes the frequency. When the scan confirms is
`Obligations.ScanConfirmsTheFirstAgreement`. The scratch takes any value (notes/assumptions/3.md) and nothing else
changes. -/
def Obligations.DetEstWritesTheEstimate : Prop :=
  ∀ s : State, s.status.fault = false → s.status.detCfg = true → 1 ≤ s.arg0.toNat → s.arg0.toNat ≤ 2 ^ 24 →
    ∃ (t : State) (f : Word), exec .detEst s = .next t ∧
      [t.ring.r0, t.ring.r1, t.ring.r2, t.ring.r3, t.ring.r4] =
        [s.ring.r0, s.ring.r1, s.ring.r2, s.ring.r3, s.ring.r4].set s.ringPtr.toNat f ∧
      match scanOf s.arg0.toNat s with
      | .confirmed pm l =>
        f = freqOf s.arg0.toNat pm l ∧
        t = { s with
          res := f
          lastFreq := f
          lastMode := BitVec.ofNat 32 pm
          ring := t.ring
          ringPtr := BitVec.ofNat 32 ((s.ringPtr.toNat + 1) % 5)
          status := { s.status with conf := true }
          scratch := t.scratch
          freeCount := t.freeCount }
      | .pitchless =>
        f = 0 ∧
        t = { s with
          res := f
          ring := t.ring
          ringPtr := BitVec.ofNat 32 ((s.ringPtr.toNat + 1) % 5)
          status := { s.status with conf := false }
          scratch := t.scratch
          freeCount := t.freeCount }

/-- R83, R84, R88, R100, R103: the level scan of a frame confirms mode `pm` at level `l` exactly if `l` is the first level
that agrees with the level before it (`LevelsAgree`, which writes R100's conditions out) and `pm` is that level's mode; it
is pitchless exactly if no level below DET_LEVELS does. The call's mean and thresholds are those of its frame. -/
def Obligations.ScanConfirmsTheFirstAgreement : Prop :=
  ∀ (fs : Nat) (s : State),
    ∃ c : Call,
      (c.params = s.params ∧ c.fs = fs ∧ c.lastMode = s.lastMode) ∧
      (c.frame.length = s.detN.toNat ∧ ∀ i < s.detN.toNat, c.frame.getD i 0 = sampleAt s.mem .frame i) ∧
      (c.mean = meanOf c.frame ∧ c.maxThr = threshold c.mean (globalMax c.frame) ∧
        c.minThr = threshold c.mean (globalMin c.frame)) ∧
      (∀ pm l, scanOf fs s = .confirmed pm l ↔
        1 ≤ l ∧ l < s.detLevels.toNat ∧ LevelsAgree c (l - 1) ∧ pm = (levelAt c (l - 1)).mode ∧
          ∀ k, k + 1 < l → ¬LevelsAgree c k) ∧
      (scanOf fs s = .pitchless ↔ ∀ k, k + 1 < s.detLevels.toNat → ¬LevelsAgree c k)

/-- R88, R89, R94, R98, R99: a level's state: the counts of the extrema its walk accepts, and its mode, the floor average of
the candidates within the refractory distance of the raw mode, or 0 without two extrema of each kind or without a raw
mode. The candidates are the gaps of span 1, 2 and 3, maxima before minima, and the walk's seed is R89's. -/
def Obligations.LevelModeIsTheRefinedRawMode : Prop :=
  ∀ (c : Call) (l : Nat) (aw : List Int) (prev : Option LevelState), 2 ≤ c.frame.length → 2 ≤ aw.length →
    let md : Nat := max 1 (c.fs / c.params.maxFrequency / 2 ^ (l + 1))
    let d0 := if c.params.climbSeed = .inputFrame then c.frame.getD 1 0 - c.frame.getD 0 0 else aw.getD 1 0 - aw.getD 0 0
    let seed : Climb := if 0 < d0 then .up else if d0 < 0 then .down else .unknown
    let w := walk ⟨md, c.mean, c.maxThr, c.minThr⟩ seed aw
    let D : List Nat := [1, 2, 3].flatMap fun g => gapsOf g w.maxIdx ++ gapsOf g w.minIdx
    let best : Nat := rawMode md aw.length D (tie c.params c.lastMode md prev)
    let S : List Nat := D.filter fun e : Nat => decide (((e : Int) - best).natAbs ≤ md)
    (levelState c l aw prev).nMax = w.maxIdx.length ∧ (levelState c l aw prev).nMin = w.minIdx.length ∧
      (levelState c l aw prev).mode =
        if 2 ≤ w.maxIdx.length ∧ 2 ≤ w.minIdx.length ∧ best ≠ 0 then S.sum / S.length else 0

/-- R97: the tie-break predicate, for both values of TIE_REF; `prev` is the previous level's state, none at level 0. -/
def Obligations.TieComparesWithTwiceTheReference : Prop :=
  ∀ (p : Params) (lastMode : Word) (md d : Nat) (prev : Option LevelState),
    tie p lastMode md prev d = true ↔
      lastMode ≠ 0xFFFFFFFF ∧
        ((p.tieRef = .prevLevelMode ∧ ∃ q, prev = some q ∧ q.mode ≠ 0 ∧ ((d : Int) - 2 * q.mode).natAbs ≤ md) ∨
          (p.tieRef = .lastConfirmedMode ∧ lastMode ≠ 0 ∧ ((d : Int) - 2 * lastMode.toNat).natAbs ≤ md))

/-- R101: two divisions in the source's order; the frequency is the exact quotient rounded once to binary32, and it is positive and finite. -/
def Obligations.FrequencyIsRoundedOnce : Prop :=
  ∀ fs pm l : Nat, 1 ≤ fs → fs ≤ 2 ^ 24 → 1 ≤ pm → pm < 2 ^ 16 → l < 16 →
    freqOf fs pm l = (F32.div (F32.div (F32.ofNat fs) (F32.ofNat pm)) (F32.ofNat (2 ^ l))).toBits ∧
    freqOf fs pm l = BitVec.ofNat 32 (roundMag (2 ^ 149 * fs) (pm * 2 ^ l)) ∧ PositiveWord (freqOf fs pm l)

/-- R13: the rounding of a quotient `(a / b) * 2^-149` is the nearest binary32 and a tie goes to the even significand. That
what lies at or beyond the middle of the largest finite number and 2^128 becomes infinity is taken from IEEE 754, which the
spec names and does not define (notes/assumptions/7.md, PRESUMED). -/
def Obligations.RoundingIsNearestEven : Prop :=
  ∀ a b : Nat, 0 < b →
    (roundMag a b = 0x7F800000 ↔ (2 ^ 25 - 1) * 2 ^ 252 * b ≤ a) ∧
    (roundMag a b < 0x7F800000 → ∀ m < 0x7F800000,
      ((magOf (roundMag a b) * b : Int) - a).natAbs ≤ ((magOf m * b : Int) - a).natAbs ∧
      (m ≠ roundMag a b → ((magOf (roundMag a b) * b : Int) - a).natAbs = ((magOf m * b : Int) - a).natAbs →
        roundMag a b % 2 = 0))

/-- R13: what each pattern stands for, and that each binary32 operation on finite values, and the conversion of a natural
number, gives the exact result rounded once (`roundMag`). Values are integers in units of 2^-149. The sign of a zero result
is IEEE 754's (notes/assumptions/7.md, PRESUMED). -/
def Obligations.ArithmeticRoundsOnce : Prop :=
  (∀ (neg : Bool) (k : Nat), k < 0x7F800000 →
    F32.ofBits (signedWord neg k) =
      .finite neg (if k < 2 ^ 23 then k else 2 ^ (k / 2 ^ 23 - 1) * (2 ^ 23 + k % 2 ^ 23))) ∧
  (∀ n : Nat, (F32.ofNat n).toBits = signedWord false (roundMag (2 ^ 149 * n) 1)) ∧
  ∀ (s t : Bool) (m n : Nat),
    let x : Int := if s then -(m : Int) else m
    let y : Int := if t then -(n : Int) else n
    (F32.add (.finite s m) (.finite t n)).toBits =
      signedWord (decide (x + y < 0) || (decide (x + y = 0) && s && t)) (roundMag (x + y).natAbs 1) ∧
    (F32.sub (.finite s m) (.finite t n)).toBits =
      signedWord (decide (x - y < 0) || (decide (x - y = 0) && s && !t)) (roundMag (x - y).natAbs 1) ∧
    (F32.mul (.finite s m) (.finite t n)).toBits = signedWord (s != t) (roundMag (m * n) (2 ^ 149)) ∧
    (n ≠ 0 → (F32.div (.finite s m) (.finite t n)).toBits = signedWord (s != t) (roundMag (2 ^ 149 * m) n))

/-- R13: `ceil` is the least integer not below the real value, and `round` the nearest integer with halves away from
zero. -/
def Obligations.CeilAndRoundOfReals : Prop :=
  ∀ (neg : Bool) (m : Nat),
    let q : ℚ := (if neg then -(m : ℚ) else m) / 2 ^ 149
    (q ≤ (F32.ceil (.finite neg m) : ℚ) ∧ ∀ z : Int, q ≤ (z : ℚ) → F32.ceil (.finite neg m) ≤ z) ∧
      |(F32.roundAway (.finite neg m) : ℚ) - q| ≤ 1 / 2 ∧
      (|(F32.roundAway (.finite neg m) : ℚ) - q| = 1 / 2 → |q| < |(F32.roundAway (.finite neg m) : ℚ)|)

/-- R87: halving gives half as many samples, each the floor average of its pair, so that `l` halvings leave the window
`2^l` times shorter. -/
def Obligations.HalvingAveragesPairs : Prop :=
  ∀ xs : List Int,
    (halve xs).length = xs.length / 2 ∧
      (∀ j < xs.length / 2, (halve xs).getD j 0 = (xs.getD (2 * j + 1) 0 + xs.getD (2 * j) 0) / 2) ∧
      ∀ l, (halve^[l] xs).length = xs.length / 2 ^ l

/-- R84, R85, R86: the extremes of a frame are its greatest and its least sample, the mean and the thresholds are the exact
rationals truncated toward zero, the mean lies between the extremes, and the minimum's threshold is not above the
maximum's. -/
def Obligations.ThresholdsAreOrdered : Prop :=
  ∀ xs : List Int, xs ≠ [] →
    (globalMax xs ∈ xs ∧ globalMin xs ∈ xs ∧ ∀ x ∈ xs, globalMin xs ≤ x ∧ x ≤ globalMax xs) ∧
    (meanOf xs = truncZero ((xs.sum : ℚ) / xs.length) ∧
      ∀ mean extreme : Int, threshold mean extreme = truncZero (mean + 3 / 4 * ((extreme : ℚ) - mean))) ∧
    (globalMin xs ≤ meanOf xs ∧ meanOf xs ≤ globalMax xs) ∧
      threshold (meanOf xs) (globalMin xs) ≤ threshold (meanOf xs) (globalMax xs)

/-- R92, R93: any two accepted extrema of a level, of one kind or of both, are at least `md` indices apart; each list is
strictly increasing and every index lies inside the window. -/
def Obligations.AcceptedExtremaAreSeparated : Prop :=
  ∀ (c : WalkLimits) (seed : Climb) (aw : List Int), 1 ≤ c.md →
    let w := walk c seed aw
    (w.maxIdx ++ w.minIdx).Pairwise (fun i j => c.md ≤ ((i : Int) - j).natAbs) ∧
      w.maxIdx.Pairwise (· < ·) ∧ w.minIdx.Pairwise (· < ·) ∧ ∀ i ∈ w.maxIdx ++ w.minIdx, i + 1 < aw.length

/-- R90, R91, R92, R93: an index is accepted exactly if it is a turning point of its kind that clears its threshold with the
search flag armed and the refractory counter 0. -/
def Obligations.ArmedTurningPointsAreAccepted : Prop :=
  ∀ (c : WalkLimits) (seed : Climb) (aw : List Int) (j : Nat),
    let w := walk c seed aw
    let x := fun i => aw.getD i 0
    let ready := ArmedAt c.mean x (w.maxIdx ++ w.minIdx) j ∧ ElapsedAt c.md (w.maxIdx ++ w.minIdx) j
    (j ∈ w.maxIdx ↔ j + 1 < aw.length ∧ RisingTo seed x j ∧ x (j + 1) < x j ∧ c.maxThr ≤ x j ∧ ready) ∧
      (j ∈ w.minIdx ↔ j + 1 < aw.length ∧ FallingTo seed x j ∧ x j < x (j + 1) ∧ x j ≤ c.minThr ∧ ready)

/-- R95, R96: the support count and the support check, and the raw mode they choose: 0 if no candidate passes the check;
else the last passing candidate of the highest count that the tie-break favours and that follows the first of that count,
or that first one if there is none. -/
def Obligations.RawModeHasMostSupport : Prop :=
  ∀ (md w : Nat) (D : List Nat) (isTie : Nat → Bool),
    let count := fun k => ((List.range D.length).filter fun m =>
      decide (m ≠ k) && decide (((D.getD m 0 : Int) - D.getD k 0).natAbs ≤ md)).length
    let passes := fun k => k < D.length ∧ w / D.getD k 0 < 4 * count k
    (rawMode md w D isTie = 0 ∧ ∀ k, ¬passes k) ∨
    ∃ first last, (passes first ∧ (∀ j, passes j → count j ≤ count first) ∧
        ∀ j < first, passes j → count j < count first) ∧
      first ≤ last ∧ (passes last ∧ count last = count first ∧ rawMode md w D isTie = D.getD last 0) ∧
      (last = first ∨ isTie (D.getD last 0) = true) ∧
      ∀ j, last < j → passes j → count j = count first → isTie (D.getD j 0) = false

/-- R104: for a constant frame no extremum is recorded, so the estimate is pitchless. -/
def Obligations.ConstantFrameIsPitchless : Prop :=
  ∀ (s : State) (v : Int), s.status.fault = false → s.status.detCfg = true →
    1 ≤ s.arg0.toNat → s.arg0.toNat ≤ 2 ^ 24 → (∀ i < s.detN.toNat, sampleAt s.mem .frame i = v) →
      ∃ t : State, exec .detEst s = .next t ∧ t.res = 0 ∧ t.status.conf = false ∧
        t.lastFreq = s.lastFreq ∧ t.lastMode = s.lastMode

/-- R82: with no level or one level every estimate is pitchless, because confirmation needs a previous level. -/
def Obligations.OneLevelNeverConfirms : Prop :=
  ∀ s : State, s.status.fault = false → s.status.detCfg = true →
    1 ≤ s.arg0.toNat → s.arg0.toNat ≤ 2 ^ 24 → s.detLevels.toNat ≤ 1 →
      ∃ t : State, exec .detEst s = .next t ∧ t.res = 0 ∧ t.status.conf = false

/-- R104: an estimate depends on FRAME[0..N-1], the sample rate, the configuration, LAST_MODE and the parameters, and on
nothing else; under TIE_REF = PREV_LEVEL_MODE, and with no LAST_MODE of all ones, not on LAST_MODE either. -/
def Obligations.EstimateDependsOnFrameAndConfiguration : Prop :=
  ∀ s u : State, s.status.fault = false → u.status.fault = false → s.status.detCfg = true → u.status.detCfg = true →
    1 ≤ s.arg0.toNat → s.arg0.toNat ≤ 2 ^ 24 → u.arg0 = s.arg0 → u.params = s.params → u.detN = s.detN →
    u.detLevels = s.detLevels →
    (u.lastMode = s.lastMode ∨
      (s.params.tieRef = .prevLevelMode ∧ s.lastMode ≠ 0xFFFFFFFF ∧ u.lastMode ≠ 0xFFFFFFFF)) →
    (∀ i < s.detN.toNat, readElem u.mem .frame i = readElem s.mem .frame i) →
      ∃ t v : State, exec .detEst s = .next t ∧ exec .detEst u = .next v ∧
        v.res = t.res ∧ v.status.conf = t.status.conf

/-! ### Smoothing policies -/

/-- R105: the median is one of the five slots, at most two slots lie strictly below it and at most two strictly above it,
and it does not depend on the order of the slots. -/
def Obligations.MedianIsThirdSmallest : Prop :=
  ∀ r : Ring, (∀ w ∈ r.toList, FreqWord w) →
    median5 r ∈ r.toList ∧
      r.toList.countP (fun w => decide (valueOf w < valueOf (median5 r))) ≤ 2 ∧
      r.toList.countP (fun w => decide (valueOf (median5 r) < valueOf w)) ≤ 2 ∧
      ∀ q : Ring, q.toList.Perm r.toList → median5 q = median5 r

/-- R106: DET_EST_MED has its word, fails the checks as DET_EST does, and else does what DET_EST does, but RES takes the median of the ring after this call's push. -/
def Obligations.MedianPolicyReportsTheMedian : Prop :=
  decode 0x00000012 = some .detEstMed ∧
  (∀ s : State, s.status.fault = false →
    (s.status.detCfg = false ∨ s.arg0.toNat < 1 ∨ 2 ^ 24 < s.arg0.toNat) → exec .detEstMed s = exec .detEst s) ∧
  ∀ s : State, s.status.fault = false → s.status.detCfg = true → 1 ≤ s.arg0.toNat → s.arg0.toNat ≤ 2 ^ 24 →
    ∃ t : State, exec .detEst s = .next t ∧ exec .detEstMed s = .next { t with res := median5 t.ring }

/-- R107: DET_EST_LAST has its word, fails the checks as DET_EST does, and else does what DET_EST does, but RES takes LAST_FREQ after the estimate: its own frequency if it confirmed
one, else the last one confirmed. -/
def Obligations.LastPolicyHoldsTheLastPitch : Prop :=
  decode 0x00000013 = some .detEstLast ∧
  (∀ s : State, s.status.fault = false →
    (s.status.detCfg = false ∨ s.arg0.toNat < 1 ∨ 2 ^ 24 < s.arg0.toNat) → exec .detEstLast s = exec .detEst s) ∧
  ∀ s : State, s.status.fault = false → s.status.detCfg = true → 1 ≤ s.arg0.toNat → s.arg0.toNat ≤ 2 ^ 24 →
    ∃ t : State, exec .detEst s = .next t ∧ exec .detEstLast s = .next { t with res := t.lastFreq } ∧
      (t.status.conf = true → t.lastFreq = t.res) ∧ (t.status.conf = false → t.lastFreq = s.lastFreq)

/-- R108: DET_EST_OCT has its word, fails the checks as DET_EST does, and else runs the estimate in full; on exact reals, a new value within the tolerance of exactly double or
exactly half the held one is discarded and the held value reported, and any other is held and reported. -/
def Obligations.OctavePolicySuppressesJumps : Prop :=
  decode 0x00000014 = some .detEstOct ∧
  (∀ s : State, s.status.fault = false →
    (s.status.detCfg = false ∨ s.arg0.toNat < 1 ∨ 2 ^ 24 < s.arg0.toNat) → exec .detEstOct s = exec .detEst s) ∧
  ∀ s : State, Inv s → s.status.fault = false → s.status.detCfg = true →
    1 ≤ s.arg0.toNat → s.arg0.toNat ≤ 2 ^ 24 →
    ∃ (t : State) (new old tol : ℚ), exec .detEst s = .next t ∧
      realOf t.res = some new ∧ realOf s.heldFreq = some old ∧ realOf s.params.octaveTol = some tol ∧
      (|new - 2 * old| ≤ tol ∨ |new - old / 2| ≤ tol →
        exec .detEstOct s = .next { t with res := s.heldFreq }) ∧
      (¬(|new - 2 * old| ≤ tol ∨ |new - old / 2| ≤ tol) →
        exec .detEstOct s = .next { t with heldFreq := t.res })

/-- R109: DET_EST_ROB has its word, fails the checks as DET_EST does, and else reports the median if it is not zero, else LAST_FREQ if this call was pitchless, else zero. -/
def Obligations.RobustPolicyHoldsOrSmooths : Prop :=
  decode 0x00000015 = some .detEstRob ∧
  (∀ s : State, s.status.fault = false →
    (s.status.detCfg = false ∨ s.arg0.toNat < 1 ∨ 2 ^ 24 < s.arg0.toNat) → exec .detEstRob s = exec .detEst s) ∧
  ∀ s : State, Inv s → s.status.fault = false → s.status.detCfg = true →
    1 ≤ s.arg0.toNat → s.arg0.toNat ≤ 2 ^ 24 →
    ∃ t : State, exec .detEst s = .next t ∧
      exec .detEstRob s = .next
        { t with res := if median5 t.ring ≠ 0 then median5 t.ring else if t.res = 0 then t.lastFreq else 0 }

/-! ### Pitch shifter -/

/-- R110, R111: SHF_CONFIG has its word and writes the clamped frame length, sets SHF_CFG and zeroes HIST, ACC and WIN; no other byte and
nothing else changes. -/
def Obligations.ShfConfigClearsTheHistory : Prop :=
  decode 0x00000020 = some .shfConfig ∧
  ∀ (s : State) (n : Nat), s.status.fault = false → (n : Int) = max 4 (min s.arg0.toInt s.params.maxWindow) →
    ∃ t : State, exec .shfConfig s = .next t ∧
      t = { s with
        shfN := BitVec.ofNat 32 n
        status := { s.status with shfCfg := true }
        res := BitVec.ofNat 32 n
        mem := t.mem } ∧
      (∀ (b : Buf) (i : Nat), b ≠ .frame → i < Buf.length s.params b → readElem t.mem b i = 0) ∧
      ∀ a, (∀ (b : Buf) (i : Nat), b ≠ .frame → i < Buf.length s.params b → ¬ByteOf b i a) →
        Memory.byteAt t.mem a = Memory.byteAt s.mem a

/-- R113, R114: the checks of SHF_CORRECT in their order; the first that fails raises its fault and nothing else changes,
and if none fails the shift parameters are those of R113. -/
def Obligations.ShfCorrectChecksInOrder : Prop :=
  ∀ s : State, s.status.fault = false →
    let n := s.shfN.toNat
    let fs := s.arg0.toNat
    let fin := F32.ofBits s.arg1
    let fdes := F32.ofBits s.arg2
    let q := F32.div (F32.ofNat fs) fin
    let sa := (F32.ceil q).toNat
    let sh := (sa + 1) / 2
    let l := sa + sh + 1
    let k := n / sa
    let x := F32.mul (F32.ofNat sa) (F32.add (F32.ofNat 1) (F32.div (F32.sub fin fdes) fdes))
    let ss := (F32.roundAway x).toNat
    let faulted := fun c : Cause =>
      Host.Outcome.next { s with status := { s.status with fault := true, cause := c, busy := false } }
    (s.status.shfCfg = false → exec .shfCorrect s = faulted .shfUnconfigured) ∧
    (s.status.shfCfg = true →
      (fs < 1 ∨ 2 ^ 24 < fs → exec .shfCorrect s = faulted .badSampleRate) ∧
      (1 ≤ fs → fs ≤ 2 ^ 24 →
        (¬PositiveWord s.arg1 ∨ ¬PositiveWord s.arg2 → exec .shfCorrect s = faulted .badPitch) ∧
        (PositiveWord s.arg1 → PositiveWord s.arg2 →
          (q = .inf false ∨ n < l → exec .shfCorrect s = faulted .psolaWindow) ∧
          (q ≠ .inf false → l ≤ n →
            (x.isFinite = false ∨ 65535 < ss ∨ 2 * n ≤ (k - 1) * ss + sa + sh - 1 →
              exec .shfCorrect s = faulted .psolaRange) ∧
            (x.isFinite = true → ss ≤ 65535 → (k - 1) * ss + sa + sh - 1 < 2 * n →
              shiftChecks s = .ok ⟨sa, sh, ss, l, k⟩)))))

/-- R112, R115 to R119: a SHF_CORRECT whose checks pass slides the history, builds the window, puts into FRAME the wrapped
sum of the windowed history at each synthesis index, clears the accumulator's first half and adds to its second; RES takes
the shifts and no other register changes. -/
def Obligations.ShfCorrectOverlapAdds : Prop :=
  ∀ (s : State) (p : Shift), Inv s → s.status.fault = false → shiftChecks s = .ok p →
    ∃ t : State, exec .shfCorrect s = .next t ∧
      t = { s with res := BitVec.ofNat 16 p.ss ++ BitVec.ofNat 16 p.s, mem := t.mem } ∧
      let n := s.shfN.toNat
      let sum := overlapSum n p (slidHistory n s.mem) (fun i => windowValue p.l i)
      (∀ j < n, sampleAt t.mem .frame j = wrap16 (sum j)) ∧
      (∀ j < n, readElem t.mem .hist j = readElem s.mem .hist (n + j) ∧
        readElem t.mem .hist (n + j) = readElem s.mem .frame j) ∧
      (∀ j < p.l, sampleAt t.mem .win j = windowValue p.l j) ∧
      (∀ j < n, readElem t.mem .acc j = 0 ∧
        sampleAt t.mem .acc (n + j) = wrap16 (sampleAt s.mem .acc (n + j) + sum (n + j)))

/-- R112, R142: a SHF_CORRECT whose checks pass writes only FRAME[0..N-1], HIST[0..2N-1], ACC[0..2N-1] and WIN[0..L-1];
every other byte reads as before. -/
def Obligations.ShfCorrectKeepsOtherBytes : Prop :=
  ∀ (s t : State) (p : Shift), s.status.fault = false → shiftChecks s = .ok p → exec .shfCorrect s = .next t →
    ∀ a, (∀ j < s.shfN.toNat, ¬ByteOf .frame j a) →
      (∀ j < 2 * s.shfN.toNat, ¬ByteOf .hist j a ∧ ¬ByteOf .acc j a) →
      (∀ j < p.l, ¬ByteOf .win j a) → Memory.byteAt t.mem a = Memory.byteAt s.mem a

/-- R120: the output of a SHF_CORRECT depends on the frames given to this call and to the one before it, and on nothing
else but the operands and the frame length. -/
def Obligations.OutputDependsOnTwoFrames : Prop :=
  ∀ (s u : State) (p : Shift), Inv s → Inv u → s.status.fault = false → u.status.fault = false →
    shiftChecks s = .ok p → shiftChecks u = .ok p → u.shfN = s.shfN →
    (∀ j < s.shfN.toNat, readElem u.mem .frame j = readElem s.mem .frame j ∧
      readElem u.mem .hist (s.shfN.toNat + j) = readElem s.mem .hist (s.shfN.toNat + j)) →
      ∃ t v : State, exec .shfCorrect s = .next t ∧ exec .shfCorrect u = .next v ∧ v.res = t.res ∧
        ∀ j < s.shfN.toNat, readElem v.mem .frame j = readElem t.mem .frame j

/-- R114's list: what holds of the shift parameters once the checks have passed, in every build that exists. -/
def Obligations.ShiftParametersStayInRange : Prop :=
  ∀ (s : State) (p : Shift), Inv s → shiftChecks s = .ok p →
    1 ≤ p.s ∧ 1 ≤ p.sh ∧ 3 ≤ p.l ∧ p.l ≤ s.shfN.toNat ∧ p.s < s.shfN.toNat ∧ 1 ≤ p.k ∧ p.s ≤ 1364 ∧
      ∀ k < p.k, ∀ i < p.s + p.sh,
        k * p.ss + i < 2 * s.shfN.toNat ∧ k * p.s + i ≤ 2 * s.shfN.toNat ∧ (k * p.s + i = 0 ↔ k = 0 ∧ i = 0)

/-- R113, R121: equal pitches give the scaling factor 1 exactly, and a synthesis shift equal to the analysis shift. -/
def Obligations.EqualPitchKeepsTheShift : Prop :=
  ∀ (f : Word) (sa : Nat), PositiveWord f → sa ≤ 1364 →
    scalingFactor (F32.ofBits f) (F32.ofBits f) = F32.ofBits 0x3F800000 ∧
      (shiftProduct sa (scalingFactor (F32.ofBits f) (F32.ofBits f))).roundAway = sa

/-- R116: the window's ramp, its forced peak and its mirrored half, for an odd and for an even length; every value is in
[0, 0x7FFF] and the window is symmetric. -/
def Obligations.WindowIsBartlett : Prop :=
  (∀ h : Nat, 1 ≤ h →
    (∀ n < h, windowValue (2 * h + 1) n = n * (0x7FFF / h)) ∧ windowValue (2 * h + 1) h = 0x7FFF) ∧
  (∀ h : Nat, 2 ≤ h →
    (∀ n, n + 2 ≤ h → windowValue (2 * h) n = n * (2 * 0x7FFF / (2 * h - 1))) ∧
      windowValue (2 * h) (h - 1) = 0x7FFF ∧ windowValue (2 * h) h = 0x7FFF) ∧
  (∀ l n : Nat, 3 ≤ l → n < l → windowValue l n = windowValue l (l - 1 - n) ∧ windowValue l n ≤ 0x7FFF)

/-- R113, R117: the overlap-add is R117's loop, which starts at analysis index -1 and synthesis index 0 and runs while
`a <= N - S - 1`, and the loop makes K = N div S passes. That the model counts passes is its own choice
(notes/assumptions/11.md). -/
def Obligations.PassesMatchTheLoopBound : Prop :=
  ∀ (n sa ss fuel : Nat) (m : Memory), 1 ≤ sa → n < fuel →
    overlapAdd n (shiftOf sa ss n) m = overlapLoop n (shiftOf sa ss n) fuel (-1) 0 m ∧
      ∀ j : Nat, j < (shiftOf sa ss n).k ↔ (j : Int) * sa - 1 ≤ (n : Int) - sa - 1
end

