-- ==== Sys2Proof/Laws/Float.lean ====
section
/-! SUPPORT. What the binary32 operations rest on: the layout of a pattern, and the rounding of a quotient. -/

namespace Sys2Proof.Machine

/-- A quotient rounded to an integer is its floor or one more. -/
theorem roundHalfEven_cases (n d : Nat) : roundHalfEven n d = n / d ∨ roundHalfEven n d = n / d + 1 := by
  unfold roundHalfEven
  split_ifs
  · exact .inr rfl
  · exact .inl rfl

/-- An exact quotient is not changed by rounding. -/
theorem roundHalfEven_mul (q : Nat) {d : Nat} (h : 0 < d) : roundHalfEven (q * d) d = q := by
  have h1 : q * d % d = 0 := Nat.mul_mod_left q d
  have h2 : q * d / d = q := Nat.mul_div_cancel q h
  simp [roundHalfEven, h1, h2]
  omega

/-- The rounded integer is as near as any: within half of one. -/
theorem roundHalfEven_near (n : Nat) {d : Nat} (h : 0 < d) :
    2 * n ≤ 2 * (d * roundHalfEven n d) + d ∧ 2 * (d * roundHalfEven n d) ≤ 2 * n + d := by
  have hm := Nat.div_add_mod n d
  have hl := Nat.mod_lt n h
  unfold roundHalfEven
  split_ifs with hc
  · rw [Nat.mul_add]
    omega
  · push Not at hc
    omega

/-- A rounded magnitude is at most the pattern of infinity. -/
theorem roundMag_le (a b : Nat) : roundMag a b ≤ 0x7F800000 := Nat.min_le_right _ _

/-- Zero rounds to the pattern of zero. -/
theorem roundMag_zero (b : Nat) (h : 0 < b) : roundMag 0 b = 0 := by
  have : ulpShift 0 b = 0 := by simp [ulpShift]
  have hr : roundHalfEven 0 b = 0 := by simpa using roundHalfEven_mul 0 h
  simp [roundMag, this, hr]

/-- The number a packed sign and magnitude stand for. -/
theorem pack_toNat (neg : Bool) {m : Nat} (h : m < 2 ^ 31) :
    (F32.pack neg m).toNat = (if neg then 2 ^ 31 else 0) + m := by
  cases neg <;> simp [F32.pack] <;> omega

/-- A positive finite pattern is read as a positive value. -/
theorem ofBits_of_lt {w : Word} (h : w.toNat < 0x7F800000) : ∃ m, F32.ofBits w = .finite false m := by
  have hs : ¬ 2 ^ 31 ≤ w.toNat := by omega
  have he : w.toNat / 2 ^ 23 % 2 ^ 8 ≠ 255 := by omega
  simp only [F32.ofBits, decide_eq_false hs, if_neg he]
  split_ifs
  · exact ⟨_, rfl⟩
  · exact ⟨_, rfl⟩

/-- The pattern of +0.0 is read as zero. -/
theorem ofBits_zero : F32.ofBits 0 = .finite false 0 := by decide

/-- The pattern of 1.0. -/
theorem one_toBits : F32.one.toBits = 0x3F800000 := by decide +kernel

end Sys2Proof.Machine
end

