-- ==== Sys2Proof/Laws/Memory.lean ====
section
/-! SUPPORT. The laws of the buffers' memory: a read after a write, what a write leaves alone, and that every memory
operation keeps the canonical form. -/

namespace Sys2Proof.Machine

/-- The reset memory is in canonical form. -/
theorem reset_mem_wf : Memory.wf State.reset.mem := by decide

/-- A byte no entry lists reads 0. -/
theorem byteAt_of_unlisted {m : Memory} {x : Nat} (h : ∀ c ∈ m, c.1 ≠ x) : m.byteAt x = 0 := by
  induction m with
  | nil => rfl
  | cons c m ih =>
    obtain ⟨a, v⟩ := c
    have ha : a ≠ x := h (a, v) (by simp)
    simp only [Memory.byteAt, if_neg ha]
    exact ih fun c hc => h c (by simp [hc])

/-- A write leaves every other byte alone. -/
theorem byteAt_setByte_of_ne {m : Memory} {x y : Nat} {v : Byte} (h : y ≠ x) :
    (m.setByte x v).byteAt y = m.byteAt y := by
  induction m with
  | nil => simp only [Memory.setByte]; split <;> simp [Memory.byteAt, h.symm]
  | cons c m ih =>
    obtain ⟨a, w⟩ := c
    simp only [Memory.setByte]
    split_ifs with h1 h2 h3 h4
    · rfl
    · simp [Memory.byteAt, h.symm]
    · simp [Memory.byteAt, h.symm, ← h3]
    · simp [Memory.byteAt, h.symm, ← h3]
    · simp [Memory.byteAt, ih]

/-- An entry of a memory after a write is the written one or was there before. -/
theorem mem_setByte {m : Memory} {x : Nat} {v : Byte} {c : Host.Cell} (h : c ∈ m.setByte x v) :
    (c = (x, v) ∧ v ≠ 0) ∨ c ∈ m := by
  induction m with
  | nil =>
    simp only [Memory.setByte] at h
    split_ifs at h with hv
    · simp at h
    · exact .inl ⟨by simpa using h, hv⟩
  | cons d m ih =>
    obtain ⟨a, w⟩ := d
    simp only [Memory.setByte] at h
    split_ifs at h with h1 h2 h3 h4
    · exact .inr h
    · rcases List.mem_cons.mp h with h | h
      · exact .inl ⟨h, h2⟩
      · exact .inr h
    · exact .inr (List.mem_cons_of_mem _ h)
    · rcases List.mem_cons.mp h with h | h
      · exact .inl ⟨h, h4⟩
      · exact .inr (List.mem_cons_of_mem _ h)
    · rcases List.mem_cons.mp h with h | h
      · exact .inr (by simp [h])
      · exact (ih h).imp id (List.mem_cons_of_mem _)

/-- The canonical form of a memory is that of its tail, below whose addresses its head lies. -/
theorem wf_cons {c : Host.Cell} {m : Memory} :
    Memory.wf (c :: m) ↔ (∀ d ∈ m, c.1 < d.1) ∧ c.2 ≠ 0 ∧ Memory.wf m := by
  simp only [Memory.wf, List.pairwise_cons, List.forall_mem_cons]
  tauto

/-- A write keeps the canonical form. -/
theorem setByte_wf {m : Memory} (x : Nat) (v : Byte) (h : m.wf) : (m.setByte x v).wf := by
  induction m with
  | nil =>
    simp only [Memory.setByte]
    split_ifs with hv
    · exact h
    · exact ⟨List.pairwise_singleton _ _, fun c hc => by rw [List.mem_singleton.mp hc]; exact hv⟩
  | cons d m ih =>
    obtain ⟨a, w⟩ := d
    have ⟨h1, h2, h3⟩ := wf_cons.mp h
    simp only [Memory.setByte]
    split_ifs with c1 c2 c3 c4
    · exact h
    · refine wf_cons.mpr ⟨fun d hd => ?_, c2, h⟩
      rcases List.mem_cons.mp hd with rfl | hd
      · exact c1
      · exact c1.trans (h1 d hd)
    · exact h3
    · exact wf_cons.mpr ⟨fun d hd => c3 ▸ h1 d hd, c4, h3⟩
    · refine wf_cons.mpr ⟨fun d hd => ?_, h2, ih h3⟩
      rcases mem_setByte hd with ⟨rfl, _⟩ | hd
      · show a < x
        omega
      · exact h1 d hd

/-- A byte reads as it was last written. -/
theorem byteAt_setByte_self {m : Memory} {x : Nat} {v : Byte} (h : m.wf) : (m.setByte x v).byteAt x = v := by
  induction m with
  | nil => simp only [Memory.setByte]; split_ifs with hv <;> simp [Memory.byteAt, hv]
  | cons d m ih =>
    obtain ⟨a, w⟩ := d
    have ⟨h1, _, h3⟩ := wf_cons.mp h
    simp only [Memory.setByte]
    split_ifs with c1 c2 c3 c4
    · rw [c2]
      refine byteAt_of_unlisted fun d hd => ?_
      rcases List.mem_cons.mp hd with rfl | hd
      · exact (ne_of_lt c1).symm
      · have := h1 d hd
        simp only at this
        omega
    · simp [Memory.byteAt]
    · rw [c4]
      refine byteAt_of_unlisted fun d hd => ?_
      have := h1 d hd
      simp only at this
      omega
    · simp [Memory.byteAt]
    · have : a ≠ x := fun e => c3 e.symm
      simp [Memory.byteAt, this, ih h3]

/-- Clearing a range keeps the canonical form. -/
theorem clearRange_wf {m : Memory} (lo hi : Nat) (h : m.wf) : (m.clearRange lo hi).wf :=
  ⟨h.1.sublist List.filter_sublist, fun c hc => h.2 c (List.mem_filter.mp hc).1⟩

/-- A cleared range reads 0 and every other byte as before. -/
theorem byteAt_clearRange (m : Memory) (lo hi x : Nat) :
    (m.clearRange lo hi).byteAt x = if lo ≤ x ∧ x < hi then 0 else m.byteAt x := by
  induction m with
  | nil => simp [Memory.clearRange, Memory.byteAt]
  | cons c m ih =>
    obtain ⟨a, v⟩ := c
    simp only [Memory.clearRange] at ih ⊢
    by_cases hk : a < lo ∨ hi ≤ a
    · rw [List.filter_cons_of_pos (by simpa using hk)]
      simp only [Memory.byteAt, ih]
      by_cases hx : a = x
      · have : ¬ (lo ≤ x ∧ x < hi) := by omega
        simp [hx, this]
      · simp [hx]
    · rw [List.filter_cons_of_neg (by simpa using hk), ih]
      by_cases hx : a = x
      · have : lo ≤ x ∧ x < hi := by omega
        simp [this]
      · simp [Memory.byteAt, hx]

/-- An element write keeps the canonical form. -/
theorem writeElem_wf {m : Memory} (b : Buf) (i : Nat) (v : Sample) (h : m.wf) : (writeElem b i v m).wf :=
  setByte_wf _ _ (setByte_wf _ _ h)

/-- An element write leaves every byte outside the element alone. -/
theorem byteAt_writeElem_of_ne {m : Memory} {b : Buf} {i x : Nat} {v : Sample} (h0 : x ≠ elemAddr b i)
    (h1 : x ≠ elemAddr b i + 1) : (writeElem b i v m).byteAt x = m.byteAt x := by
  simp only [writeElem, byteAt_setByte_of_ne h0, byteAt_setByte_of_ne h1]

/-- An element reads as it was last written. -/
theorem readElem_writeElem_self {m : Memory} {b : Buf} {i : Nat} {v : Sample} (h : m.wf) :
    readElem (writeElem b i v m) b i = v := by
  have hne : elemAddr b i + 1 ≠ elemAddr b i := by omega
  simp only [readElem, writeElem, byteAt_setByte_of_ne hne, byteAt_setByte_self h,
    byteAt_setByte_self (setByte_wf _ _ h)]
  ext k hk
  simp only [BitVec.getElem_append, BitVec.getElem_extractLsb']
  split <;> simp_all

/-- An element at another address is not changed by an element write. -/
theorem readElem_writeElem_of_ne {m : Memory} {b c : Buf} {i j : Nat} {v : Sample} (h : elemAddr c j ≠ elemAddr b i)
    (h' : elemAddr c j + 1 ≠ elemAddr b i) (h'' : elemAddr c j ≠ elemAddr b i + 1) :
    readElem (writeElem b i v m) c j = readElem m c j := by
  have h3 : elemAddr c j + 1 ≠ elemAddr b i + 1 := by omega
  simp only [readElem, byteAt_writeElem_of_ne h h'', byteAt_writeElem_of_ne h' h3]

/-- Element addresses are even, so two elements that start at different addresses share no byte. -/
theorem elemAddr_even (b : Buf) (i : Nat) : elemAddr b i % 2 = 0 := by
  cases b <;> simp only [elemAddr, bufBase] <;> omega

/-- Reading an element back after a write to any element. -/
theorem readElem_writeElem {m : Memory} {b c : Buf} {i j : Nat} {v : Sample} (h : m.wf) :
    readElem (writeElem b i v m) c j = if elemAddr c j = elemAddr b i then v else readElem m c j := by
  have hb := elemAddr_even b i
  have hc := elemAddr_even c j
  split_ifs with he
  · have := readElem_writeElem_self (b := b) (i := i) (v := v) h
    simpa only [readElem, he] using this
  · exact readElem_writeElem_of_ne he (by omega) (by omega)

/-- What holds before a loop and is kept by each of its passes holds after it. -/
theorem forUp_keeps {α : Type} {P : α → Prop} {n : Nat} {body : Nat → α → α} {a : α} (h0 : P a)
    (hs : ∀ i x, i < n → P x → P (body i x)) : P (forUp n body a) := by
  induction n with
  | zero => exact h0
  | succ n ih => exact hs n _ (Nat.lt_succ_self n) (ih fun i x hi => hs i x (Nat.lt_succ_of_lt hi))

theorem clearElems_wf {m : Memory} (b : Buf) (n : Nat) (h : m.wf) : (clearElems b n m).wf := clearRange_wf _ _ h

theorem copyElems_wf {m : Memory} (d : Buf) (dj : Nat) (sb : Buf) (sj n : Nat) (h : m.wf) :
    (copyElems d dj sb sj n m).wf :=
  forUp_keeps h fun _ _ _ hx => writeElem_wf _ _ _ hx

theorem slideHistory_wf {m : Memory} (n : Nat) (h : m.wf) : (slideHistory n m).wf :=
  copyElems_wf _ _ _ _ _ (copyElems_wf _ _ _ _ _ h)

theorem buildWindow_wf {m : Memory} (l : Nat) (h : m.wf) : (buildWindow l m).wf :=
  forUp_keeps h fun _ _ _ hx => writeElem_wf _ _ _ hx

theorem accumulate_wf {m : Memory} (n : Nat) (a : Int) (si i : Nat) (h : m.wf) : (accumulate n a si i m).wf := by
  unfold accumulate
  split_ifs
  · exact writeElem_wf _ _ _ h
  · exact h

theorem overlapAdd_wf {m : Memory} (n : Nat) (p : Shift) (h : m.wf) : (overlapAdd n p m).wf :=
  forUp_keeps h fun _ _ _ hx => forUp_keeps hx fun _ _ _ hy => accumulate_wf _ _ _ _ hy

theorem writeBack_wf {m : Memory} (n : Nat) (h : m.wf) : (writeBack n m).wf :=
  clearElems_wf _ _ (copyElems_wf _ _ _ _ _ h)

/-- The buffers after SHF_CORRECT are in canonical form. -/
theorem correctFrame_wf {m : Memory} (n : Nat) (p : Shift) (h : m.wf) : (correctFrame n p m).wf :=
  writeBack_wf _ (overlapAdd_wf _ _ (buildWindow_wf _ (slideHistory_wf _ h)))

/-- The buffers after SHF_CONFIG are in canonical form. -/
theorem clearShifterBuffers_wf {m : Memory} (p : Params) (h : m.wf) : (clearShifterBuffers p m).wf :=
  clearElems_wf _ _ (clearElems_wf _ _ (clearElems_wf _ _ h))

/-- Copying elements leaves every byte outside the destination elements alone. -/
theorem byteAt_copyElems_of_outside {m : Memory} {d sb : Buf} {dj sj n x : Nat}
    (h : ∀ i < n, x ≠ elemAddr d (dj + i) ∧ x ≠ elemAddr d (dj + i) + 1) :
    (copyElems d dj sb sj n m).byteAt x = m.byteAt x :=
  forUp_keeps (P := fun m' => Memory.byteAt m' x = Memory.byteAt m x) rfl fun i _ hi hx =>
    (byteAt_writeElem_of_ne (h i hi).1 (h i hi).2).trans hx

end Sys2Proof.Machine
end

