-- ==== Sys2Proof/Laws/State.lean ====
section
/-! SUPPORT. What each named update of the state leaves in each field: one lemma per field per update, so that no later
proof unfolds a record update. -/

namespace Sys2Proof.Machine

@[simp] theorem setRes_arg0 (v : Word) (s : State) : (State.setRes v s).arg0 = s.arg0 := rfl
@[simp] theorem setRes_arg1 (v : Word) (s : State) : (State.setRes v s).arg1 = s.arg1 := rfl
@[simp] theorem setRes_arg2 (v : Word) (s : State) : (State.setRes v s).arg2 = s.arg2 := rfl
@[simp] theorem setRes_res (v : Word) (s : State) : (State.setRes v s).res = v := rfl
@[simp] theorem setRes_status (v : Word) (s : State) : (State.setRes v s).status = s.status := rfl
@[simp] theorem setRes_detLevels (v : Word) (s : State) : (State.setRes v s).detLevels = s.detLevels := rfl
@[simp] theorem setRes_detN (v : Word) (s : State) : (State.setRes v s).detN = s.detN := rfl
@[simp] theorem setRes_shfN (v : Word) (s : State) : (State.setRes v s).shfN = s.shfN := rfl
@[simp] theorem setRes_lastFreq (v : Word) (s : State) : (State.setRes v s).lastFreq = s.lastFreq := rfl
@[simp] theorem setRes_lastMode (v : Word) (s : State) : (State.setRes v s).lastMode = s.lastMode := rfl
@[simp] theorem setRes_heldFreq (v : Word) (s : State) : (State.setRes v s).heldFreq = s.heldFreq := rfl
@[simp] theorem setRes_ringPtr (v : Word) (s : State) : (State.setRes v s).ringPtr = s.ringPtr := rfl
@[simp] theorem setRes_ring (v : Word) (s : State) : (State.setRes v s).ring = s.ring := rfl
@[simp] theorem setRes_params (v : Word) (s : State) : (State.setRes v s).params = s.params := rfl
@[simp] theorem setRes_mem (v : Word) (s : State) : (State.setRes v s).mem = s.mem := rfl
@[simp] theorem setRes_scratch (v : Word) (s : State) : (State.setRes v s).scratch = s.scratch := rfl
@[simp] theorem setRes_freeCount (v : Word) (s : State) : (State.setRes v s).freeCount = s.freeCount := rfl
@[simp] theorem setRes_host (v : Word) (s : State) : (State.setRes v s).host = s.host := rfl

@[simp] theorem setConf_arg0 (b : Bool) (s : State) : (State.setConf b s).arg0 = s.arg0 := rfl
@[simp] theorem setConf_arg1 (b : Bool) (s : State) : (State.setConf b s).arg1 = s.arg1 := rfl
@[simp] theorem setConf_arg2 (b : Bool) (s : State) : (State.setConf b s).arg2 = s.arg2 := rfl
@[simp] theorem setConf_res (b : Bool) (s : State) : (State.setConf b s).res = s.res := rfl
@[simp] theorem setConf_status (b : Bool) (s : State) : (State.setConf b s).status = { s.status with conf := b } := rfl
@[simp] theorem setConf_detLevels (b : Bool) (s : State) : (State.setConf b s).detLevels = s.detLevels := rfl
@[simp] theorem setConf_detN (b : Bool) (s : State) : (State.setConf b s).detN = s.detN := rfl
@[simp] theorem setConf_shfN (b : Bool) (s : State) : (State.setConf b s).shfN = s.shfN := rfl
@[simp] theorem setConf_lastFreq (b : Bool) (s : State) : (State.setConf b s).lastFreq = s.lastFreq := rfl
@[simp] theorem setConf_lastMode (b : Bool) (s : State) : (State.setConf b s).lastMode = s.lastMode := rfl
@[simp] theorem setConf_heldFreq (b : Bool) (s : State) : (State.setConf b s).heldFreq = s.heldFreq := rfl
@[simp] theorem setConf_ringPtr (b : Bool) (s : State) : (State.setConf b s).ringPtr = s.ringPtr := rfl
@[simp] theorem setConf_ring (b : Bool) (s : State) : (State.setConf b s).ring = s.ring := rfl
@[simp] theorem setConf_params (b : Bool) (s : State) : (State.setConf b s).params = s.params := rfl
@[simp] theorem setConf_mem (b : Bool) (s : State) : (State.setConf b s).mem = s.mem := rfl
@[simp] theorem setConf_scratch (b : Bool) (s : State) : (State.setConf b s).scratch = s.scratch := rfl
@[simp] theorem setConf_freeCount (b : Bool) (s : State) : (State.setConf b s).freeCount = s.freeCount := rfl
@[simp] theorem setConf_host (b : Bool) (s : State) : (State.setConf b s).host = s.host := rfl

@[simp] theorem setHeld_arg0 (v : Word) (s : State) : (State.setHeld v s).arg0 = s.arg0 := rfl
@[simp] theorem setHeld_arg1 (v : Word) (s : State) : (State.setHeld v s).arg1 = s.arg1 := rfl
@[simp] theorem setHeld_arg2 (v : Word) (s : State) : (State.setHeld v s).arg2 = s.arg2 := rfl
@[simp] theorem setHeld_res (v : Word) (s : State) : (State.setHeld v s).res = s.res := rfl
@[simp] theorem setHeld_status (v : Word) (s : State) : (State.setHeld v s).status = s.status := rfl
@[simp] theorem setHeld_detLevels (v : Word) (s : State) : (State.setHeld v s).detLevels = s.detLevels := rfl
@[simp] theorem setHeld_detN (v : Word) (s : State) : (State.setHeld v s).detN = s.detN := rfl
@[simp] theorem setHeld_shfN (v : Word) (s : State) : (State.setHeld v s).shfN = s.shfN := rfl
@[simp] theorem setHeld_lastFreq (v : Word) (s : State) : (State.setHeld v s).lastFreq = s.lastFreq := rfl
@[simp] theorem setHeld_lastMode (v : Word) (s : State) : (State.setHeld v s).lastMode = s.lastMode := rfl
@[simp] theorem setHeld_heldFreq (v : Word) (s : State) : (State.setHeld v s).heldFreq = v := rfl
@[simp] theorem setHeld_ringPtr (v : Word) (s : State) : (State.setHeld v s).ringPtr = s.ringPtr := rfl
@[simp] theorem setHeld_ring (v : Word) (s : State) : (State.setHeld v s).ring = s.ring := rfl
@[simp] theorem setHeld_params (v : Word) (s : State) : (State.setHeld v s).params = s.params := rfl
@[simp] theorem setHeld_mem (v : Word) (s : State) : (State.setHeld v s).mem = s.mem := rfl
@[simp] theorem setHeld_scratch (v : Word) (s : State) : (State.setHeld v s).scratch = s.scratch := rfl
@[simp] theorem setHeld_freeCount (v : Word) (s : State) : (State.setHeld v s).freeCount = s.freeCount := rfl
@[simp] theorem setHeld_host (v : Word) (s : State) : (State.setHeld v s).host = s.host := rfl

@[simp] theorem setMem_arg0 (m : Memory) (s : State) : (State.setMem m s).arg0 = s.arg0 := rfl
@[simp] theorem setMem_arg1 (m : Memory) (s : State) : (State.setMem m s).arg1 = s.arg1 := rfl
@[simp] theorem setMem_arg2 (m : Memory) (s : State) : (State.setMem m s).arg2 = s.arg2 := rfl
@[simp] theorem setMem_res (m : Memory) (s : State) : (State.setMem m s).res = s.res := rfl
@[simp] theorem setMem_status (m : Memory) (s : State) : (State.setMem m s).status = s.status := rfl
@[simp] theorem setMem_detLevels (m : Memory) (s : State) : (State.setMem m s).detLevels = s.detLevels := rfl
@[simp] theorem setMem_detN (m : Memory) (s : State) : (State.setMem m s).detN = s.detN := rfl
@[simp] theorem setMem_shfN (m : Memory) (s : State) : (State.setMem m s).shfN = s.shfN := rfl
@[simp] theorem setMem_lastFreq (m : Memory) (s : State) : (State.setMem m s).lastFreq = s.lastFreq := rfl
@[simp] theorem setMem_lastMode (m : Memory) (s : State) : (State.setMem m s).lastMode = s.lastMode := rfl
@[simp] theorem setMem_heldFreq (m : Memory) (s : State) : (State.setMem m s).heldFreq = s.heldFreq := rfl
@[simp] theorem setMem_ringPtr (m : Memory) (s : State) : (State.setMem m s).ringPtr = s.ringPtr := rfl
@[simp] theorem setMem_ring (m : Memory) (s : State) : (State.setMem m s).ring = s.ring := rfl
@[simp] theorem setMem_params (m : Memory) (s : State) : (State.setMem m s).params = s.params := rfl
@[simp] theorem setMem_mem (m : Memory) (s : State) : (State.setMem m s).mem = m := rfl
@[simp] theorem setMem_scratch (m : Memory) (s : State) : (State.setMem m s).scratch = s.scratch := rfl
@[simp] theorem setMem_freeCount (m : Memory) (s : State) : (State.setMem m s).freeCount = s.freeCount := rfl
@[simp] theorem setMem_host (m : Memory) (s : State) : (State.setMem m s).host = s.host := rfl

@[simp] theorem push_arg0 (v : Word) (s : State) : (State.push v s).arg0 = s.arg0 := rfl
@[simp] theorem push_arg1 (v : Word) (s : State) : (State.push v s).arg1 = s.arg1 := rfl
@[simp] theorem push_arg2 (v : Word) (s : State) : (State.push v s).arg2 = s.arg2 := rfl
@[simp] theorem push_res (v : Word) (s : State) : (State.push v s).res = s.res := rfl
@[simp] theorem push_status (v : Word) (s : State) : (State.push v s).status = s.status := rfl
@[simp] theorem push_detLevels (v : Word) (s : State) : (State.push v s).detLevels = s.detLevels := rfl
@[simp] theorem push_detN (v : Word) (s : State) : (State.push v s).detN = s.detN := rfl
@[simp] theorem push_shfN (v : Word) (s : State) : (State.push v s).shfN = s.shfN := rfl
@[simp] theorem push_lastFreq (v : Word) (s : State) : (State.push v s).lastFreq = s.lastFreq := rfl
@[simp] theorem push_lastMode (v : Word) (s : State) : (State.push v s).lastMode = s.lastMode := rfl
@[simp] theorem push_heldFreq (v : Word) (s : State) : (State.push v s).heldFreq = s.heldFreq := rfl
@[simp] theorem push_ringPtr (v : Word) (s : State) : (State.push v s).ringPtr = BitVec.ofNat 32 ((s.ringPtr.toNat + 1) % 5) := rfl
@[simp] theorem push_ring (v : Word) (s : State) : (State.push v s).ring = s.ring.set s.ringPtr.toNat v := rfl
@[simp] theorem push_params (v : Word) (s : State) : (State.push v s).params = s.params := rfl
@[simp] theorem push_mem (v : Word) (s : State) : (State.push v s).mem = s.mem := rfl
@[simp] theorem push_scratch (v : Word) (s : State) : (State.push v s).scratch = s.scratch := rfl
@[simp] theorem push_freeCount (v : Word) (s : State) : (State.push v s).freeCount = s.freeCount := rfl
@[simp] theorem push_host (v : Word) (s : State) : (State.push v s).host = s.host := rfl

@[simp] theorem recordPitch_arg0 (m f : Word) (s : State) : (State.recordPitch m f s).arg0 = s.arg0 := rfl
@[simp] theorem recordPitch_arg1 (m f : Word) (s : State) : (State.recordPitch m f s).arg1 = s.arg1 := rfl
@[simp] theorem recordPitch_arg2 (m f : Word) (s : State) : (State.recordPitch m f s).arg2 = s.arg2 := rfl
@[simp] theorem recordPitch_res (m f : Word) (s : State) : (State.recordPitch m f s).res = s.res := rfl
@[simp] theorem recordPitch_status (m f : Word) (s : State) : (State.recordPitch m f s).status = s.status := rfl
@[simp] theorem recordPitch_detLevels (m f : Word) (s : State) : (State.recordPitch m f s).detLevels = s.detLevels := rfl
@[simp] theorem recordPitch_detN (m f : Word) (s : State) : (State.recordPitch m f s).detN = s.detN := rfl
@[simp] theorem recordPitch_shfN (m f : Word) (s : State) : (State.recordPitch m f s).shfN = s.shfN := rfl
@[simp] theorem recordPitch_lastFreq (m f : Word) (s : State) : (State.recordPitch m f s).lastFreq = f := rfl
@[simp] theorem recordPitch_lastMode (m f : Word) (s : State) : (State.recordPitch m f s).lastMode = m := rfl
@[simp] theorem recordPitch_heldFreq (m f : Word) (s : State) : (State.recordPitch m f s).heldFreq = s.heldFreq := rfl
@[simp] theorem recordPitch_ringPtr (m f : Word) (s : State) : (State.recordPitch m f s).ringPtr = s.ringPtr := rfl
@[simp] theorem recordPitch_ring (m f : Word) (s : State) : (State.recordPitch m f s).ring = s.ring := rfl
@[simp] theorem recordPitch_params (m f : Word) (s : State) : (State.recordPitch m f s).params = s.params := rfl
@[simp] theorem recordPitch_mem (m f : Word) (s : State) : (State.recordPitch m f s).mem = s.mem := rfl
@[simp] theorem recordPitch_scratch (m f : Word) (s : State) : (State.recordPitch m f s).scratch = s.scratch := rfl
@[simp] theorem recordPitch_freeCount (m f : Word) (s : State) : (State.recordPitch m f s).freeCount = s.freeCount := rfl
@[simp] theorem recordPitch_host (m f : Word) (s : State) : (State.recordPitch m f s).host = s.host := rfl

@[simp] theorem forgetScratch_arg0 (s : State) : (State.forgetScratch s).arg0 = s.arg0 := rfl
@[simp] theorem forgetScratch_arg1 (s : State) : (State.forgetScratch s).arg1 = s.arg1 := rfl
@[simp] theorem forgetScratch_arg2 (s : State) : (State.forgetScratch s).arg2 = s.arg2 := rfl
@[simp] theorem forgetScratch_res (s : State) : (State.forgetScratch s).res = s.res := rfl
@[simp] theorem forgetScratch_status (s : State) : (State.forgetScratch s).status = s.status := rfl
@[simp] theorem forgetScratch_detLevels (s : State) : (State.forgetScratch s).detLevels = s.detLevels := rfl
@[simp] theorem forgetScratch_detN (s : State) : (State.forgetScratch s).detN = s.detN := rfl
@[simp] theorem forgetScratch_shfN (s : State) : (State.forgetScratch s).shfN = s.shfN := rfl
@[simp] theorem forgetScratch_lastFreq (s : State) : (State.forgetScratch s).lastFreq = s.lastFreq := rfl
@[simp] theorem forgetScratch_lastMode (s : State) : (State.forgetScratch s).lastMode = s.lastMode := rfl
@[simp] theorem forgetScratch_heldFreq (s : State) : (State.forgetScratch s).heldFreq = s.heldFreq := rfl
@[simp] theorem forgetScratch_ringPtr (s : State) : (State.forgetScratch s).ringPtr = s.ringPtr := rfl
@[simp] theorem forgetScratch_ring (s : State) : (State.forgetScratch s).ring = s.ring := rfl
@[simp] theorem forgetScratch_params (s : State) : (State.forgetScratch s).params = s.params := rfl
@[simp] theorem forgetScratch_mem (s : State) : (State.forgetScratch s).mem = s.mem := rfl
@[simp] theorem forgetScratch_scratch (s : State) : (State.forgetScratch s).scratch = Config.freeScratch s.freeCount := rfl
@[simp] theorem forgetScratch_freeCount (s : State) : (State.forgetScratch s).freeCount = s.freeCount + 1 := rfl
@[simp] theorem forgetScratch_host (s : State) : (State.forgetScratch s).host = s.host := rfl

@[simp] theorem configureDetector_arg0 (l n : Nat) (s : State) : (State.configureDetector l n s).arg0 = s.arg0 := rfl
@[simp] theorem configureDetector_arg1 (l n : Nat) (s : State) : (State.configureDetector l n s).arg1 = s.arg1 := rfl
@[simp] theorem configureDetector_arg2 (l n : Nat) (s : State) : (State.configureDetector l n s).arg2 = s.arg2 := rfl
@[simp] theorem configureDetector_res (l n : Nat) (s : State) : (State.configureDetector l n s).res = s.res := rfl
@[simp] theorem configureDetector_status (l n : Nat) (s : State) : (State.configureDetector l n s).status = { s.status with detCfg := true, conf := false } := rfl
@[simp] theorem configureDetector_detLevels (l n : Nat) (s : State) : (State.configureDetector l n s).detLevels = BitVec.ofNat 32 l := rfl
@[simp] theorem configureDetector_detN (l n : Nat) (s : State) : (State.configureDetector l n s).detN = BitVec.ofNat 32 n := rfl
@[simp] theorem configureDetector_shfN (l n : Nat) (s : State) : (State.configureDetector l n s).shfN = s.shfN := rfl
@[simp] theorem configureDetector_lastFreq (l n : Nat) (s : State) : (State.configureDetector l n s).lastFreq = 0 := rfl
@[simp] theorem configureDetector_lastMode (l n : Nat) (s : State) : (State.configureDetector l n s).lastMode = 0 := rfl
@[simp] theorem configureDetector_heldFreq (l n : Nat) (s : State) : (State.configureDetector l n s).heldFreq = 0 := rfl
@[simp] theorem configureDetector_ringPtr (l n : Nat) (s : State) : (State.configureDetector l n s).ringPtr = 0 := rfl
@[simp] theorem configureDetector_ring (l n : Nat) (s : State) : (State.configureDetector l n s).ring = Ring.zero := rfl
@[simp] theorem configureDetector_params (l n : Nat) (s : State) : (State.configureDetector l n s).params = s.params := rfl
@[simp] theorem configureDetector_mem (l n : Nat) (s : State) : (State.configureDetector l n s).mem = s.mem := rfl
@[simp] theorem configureDetector_scratch (l n : Nat) (s : State) : (State.configureDetector l n s).scratch = s.scratch := rfl
@[simp] theorem configureDetector_freeCount (l n : Nat) (s : State) : (State.configureDetector l n s).freeCount = s.freeCount := rfl
@[simp] theorem configureDetector_host (l n : Nat) (s : State) : (State.configureDetector l n s).host = s.host := rfl

@[simp] theorem configureShifter_arg0 (n : Nat) (s : State) : (State.configureShifter n s).arg0 = s.arg0 := rfl
@[simp] theorem configureShifter_arg1 (n : Nat) (s : State) : (State.configureShifter n s).arg1 = s.arg1 := rfl
@[simp] theorem configureShifter_arg2 (n : Nat) (s : State) : (State.configureShifter n s).arg2 = s.arg2 := rfl
@[simp] theorem configureShifter_res (n : Nat) (s : State) : (State.configureShifter n s).res = s.res := rfl
@[simp] theorem configureShifter_status (n : Nat) (s : State) : (State.configureShifter n s).status = { s.status with shfCfg := true } := rfl
@[simp] theorem configureShifter_detLevels (n : Nat) (s : State) : (State.configureShifter n s).detLevels = s.detLevels := rfl
@[simp] theorem configureShifter_detN (n : Nat) (s : State) : (State.configureShifter n s).detN = s.detN := rfl
@[simp] theorem configureShifter_shfN (n : Nat) (s : State) : (State.configureShifter n s).shfN = BitVec.ofNat 32 n := rfl
@[simp] theorem configureShifter_lastFreq (n : Nat) (s : State) : (State.configureShifter n s).lastFreq = s.lastFreq := rfl
@[simp] theorem configureShifter_lastMode (n : Nat) (s : State) : (State.configureShifter n s).lastMode = s.lastMode := rfl
@[simp] theorem configureShifter_heldFreq (n : Nat) (s : State) : (State.configureShifter n s).heldFreq = s.heldFreq := rfl
@[simp] theorem configureShifter_ringPtr (n : Nat) (s : State) : (State.configureShifter n s).ringPtr = s.ringPtr := rfl
@[simp] theorem configureShifter_ring (n : Nat) (s : State) : (State.configureShifter n s).ring = s.ring := rfl
@[simp] theorem configureShifter_params (n : Nat) (s : State) : (State.configureShifter n s).params = s.params := rfl
@[simp] theorem configureShifter_mem (n : Nat) (s : State) : (State.configureShifter n s).mem = s.mem := rfl
@[simp] theorem configureShifter_scratch (n : Nat) (s : State) : (State.configureShifter n s).scratch = s.scratch := rfl
@[simp] theorem configureShifter_freeCount (n : Nat) (s : State) : (State.configureShifter n s).freeCount = s.freeCount := rfl
@[simp] theorem configureShifter_host (n : Nat) (s : State) : (State.configureShifter n s).host = s.host := rfl

@[simp] theorem takeFault_arg0 (c : Cause) (s : State) : (takeFault c s).arg0 = s.arg0 := rfl
@[simp] theorem takeFault_arg1 (c : Cause) (s : State) : (takeFault c s).arg1 = s.arg1 := rfl
@[simp] theorem takeFault_arg2 (c : Cause) (s : State) : (takeFault c s).arg2 = s.arg2 := rfl
@[simp] theorem takeFault_res (c : Cause) (s : State) : (takeFault c s).res = s.res := rfl
@[simp] theorem takeFault_status (c : Cause) (s : State) : (takeFault c s).status = { s.status with fault := true, cause := c, busy := false } := rfl
@[simp] theorem takeFault_detLevels (c : Cause) (s : State) : (takeFault c s).detLevels = s.detLevels := rfl
@[simp] theorem takeFault_detN (c : Cause) (s : State) : (takeFault c s).detN = s.detN := rfl
@[simp] theorem takeFault_shfN (c : Cause) (s : State) : (takeFault c s).shfN = s.shfN := rfl
@[simp] theorem takeFault_lastFreq (c : Cause) (s : State) : (takeFault c s).lastFreq = s.lastFreq := rfl
@[simp] theorem takeFault_lastMode (c : Cause) (s : State) : (takeFault c s).lastMode = s.lastMode := rfl
@[simp] theorem takeFault_heldFreq (c : Cause) (s : State) : (takeFault c s).heldFreq = s.heldFreq := rfl
@[simp] theorem takeFault_ringPtr (c : Cause) (s : State) : (takeFault c s).ringPtr = s.ringPtr := rfl
@[simp] theorem takeFault_ring (c : Cause) (s : State) : (takeFault c s).ring = s.ring := rfl
@[simp] theorem takeFault_params (c : Cause) (s : State) : (takeFault c s).params = s.params := rfl
@[simp] theorem takeFault_mem (c : Cause) (s : State) : (takeFault c s).mem = s.mem := rfl
@[simp] theorem takeFault_scratch (c : Cause) (s : State) : (takeFault c s).scratch = s.scratch := rfl
@[simp] theorem takeFault_freeCount (c : Cause) (s : State) : (takeFault c s).freeCount = s.freeCount := rfl
@[simp] theorem takeFault_host (c : Cause) (s : State) : (takeFault c s).host = s.host := rfl

@[simp] theorem resetEvent_arg0 (s : State) : (resetEvent s).arg0 = 0 := rfl
@[simp] theorem resetEvent_arg1 (s : State) : (resetEvent s).arg1 = 0 := rfl
@[simp] theorem resetEvent_arg2 (s : State) : (resetEvent s).arg2 = 0 := rfl
@[simp] theorem resetEvent_res (s : State) : (resetEvent s).res = 0 := rfl
@[simp] theorem resetEvent_status (s : State) : (resetEvent s).status = Status.reset := rfl
@[simp] theorem resetEvent_detLevels (s : State) : (resetEvent s).detLevels = 0 := rfl
@[simp] theorem resetEvent_detN (s : State) : (resetEvent s).detN = 0 := rfl
@[simp] theorem resetEvent_shfN (s : State) : (resetEvent s).shfN = 0 := rfl
@[simp] theorem resetEvent_lastFreq (s : State) : (resetEvent s).lastFreq = 0 := rfl
@[simp] theorem resetEvent_lastMode (s : State) : (resetEvent s).lastMode = 0 := rfl
@[simp] theorem resetEvent_heldFreq (s : State) : (resetEvent s).heldFreq = 0 := rfl
@[simp] theorem resetEvent_ringPtr (s : State) : (resetEvent s).ringPtr = 0 := rfl
@[simp] theorem resetEvent_ring (s : State) : (resetEvent s).ring = Ring.zero := rfl
@[simp] theorem resetEvent_params (s : State) : (resetEvent s).params = s.params := rfl
@[simp] theorem resetEvent_mem (s : State) : (resetEvent s).mem = [] := rfl
@[simp] theorem resetEvent_scratch (s : State) : (resetEvent s).scratch = Config.freeScratch s.freeCount := rfl
@[simp] theorem resetEvent_freeCount (s : State) : (resetEvent s).freeCount = s.freeCount + 1 := rfl
@[simp] theorem resetEvent_host (s : State) : (resetEvent s).host = s.host := rfl

@[simp] theorem advance_arg0 (s : State) : (State.advance s).arg0 = s.arg0 := rfl
@[simp] theorem advance_arg1 (s : State) : (State.advance s).arg1 = s.arg1 := rfl
@[simp] theorem advance_arg2 (s : State) : (State.advance s).arg2 = s.arg2 := rfl
@[simp] theorem advance_res (s : State) : (State.advance s).res = s.res := rfl
@[simp] theorem advance_status (s : State) : (State.advance s).status = s.status := rfl
@[simp] theorem advance_detLevels (s : State) : (State.advance s).detLevels = s.detLevels := rfl
@[simp] theorem advance_detN (s : State) : (State.advance s).detN = s.detN := rfl
@[simp] theorem advance_shfN (s : State) : (State.advance s).shfN = s.shfN := rfl
@[simp] theorem advance_lastFreq (s : State) : (State.advance s).lastFreq = s.lastFreq := rfl
@[simp] theorem advance_lastMode (s : State) : (State.advance s).lastMode = s.lastMode := rfl
@[simp] theorem advance_heldFreq (s : State) : (State.advance s).heldFreq = s.heldFreq := rfl
@[simp] theorem advance_ringPtr (s : State) : (State.advance s).ringPtr = s.ringPtr := rfl
@[simp] theorem advance_ring (s : State) : (State.advance s).ring = s.ring := rfl
@[simp] theorem advance_params (s : State) : (State.advance s).params = s.params := rfl
@[simp] theorem advance_mem (s : State) : (State.advance s).mem = s.mem := rfl
@[simp] theorem advance_scratch (s : State) : (State.advance s).scratch = s.scratch := rfl
@[simp] theorem advance_freeCount (s : State) : (State.advance s).freeCount = s.freeCount := rfl
@[simp] theorem advance_host (s : State) : (State.advance s).host = { s.host with position := s.host.position + 1 } := rfl

@[simp] theorem logRead_arg0 (v : Word) (s : State) : (State.logRead v s).arg0 = s.arg0 := rfl
@[simp] theorem logRead_arg1 (v : Word) (s : State) : (State.logRead v s).arg1 = s.arg1 := rfl
@[simp] theorem logRead_arg2 (v : Word) (s : State) : (State.logRead v s).arg2 = s.arg2 := rfl
@[simp] theorem logRead_res (v : Word) (s : State) : (State.logRead v s).res = s.res := rfl
@[simp] theorem logRead_status (v : Word) (s : State) : (State.logRead v s).status = s.status := rfl
@[simp] theorem logRead_detLevels (v : Word) (s : State) : (State.logRead v s).detLevels = s.detLevels := rfl
@[simp] theorem logRead_detN (v : Word) (s : State) : (State.logRead v s).detN = s.detN := rfl
@[simp] theorem logRead_shfN (v : Word) (s : State) : (State.logRead v s).shfN = s.shfN := rfl
@[simp] theorem logRead_lastFreq (v : Word) (s : State) : (State.logRead v s).lastFreq = s.lastFreq := rfl
@[simp] theorem logRead_lastMode (v : Word) (s : State) : (State.logRead v s).lastMode = s.lastMode := rfl
@[simp] theorem logRead_heldFreq (v : Word) (s : State) : (State.logRead v s).heldFreq = s.heldFreq := rfl
@[simp] theorem logRead_ringPtr (v : Word) (s : State) : (State.logRead v s).ringPtr = s.ringPtr := rfl
@[simp] theorem logRead_ring (v : Word) (s : State) : (State.logRead v s).ring = s.ring := rfl
@[simp] theorem logRead_params (v : Word) (s : State) : (State.logRead v s).params = s.params := rfl
@[simp] theorem logRead_mem (v : Word) (s : State) : (State.logRead v s).mem = s.mem := rfl
@[simp] theorem logRead_scratch (v : Word) (s : State) : (State.logRead v s).scratch = s.scratch := rfl
@[simp] theorem logRead_freeCount (v : Word) (s : State) : (State.logRead v s).freeCount = s.freeCount := rfl
@[simp] theorem logRead_host (v : Word) (s : State) : (State.logRead v s).host = { s.host with reads := v :: s.host.reads } := rfl

@[simp] theorem setArg_0 (v : Word) (s : State) : s.setArg 0 v = { s with arg0 := v } := rfl
@[simp] theorem setArg_1 (v : Word) (s : State) : s.setArg 1 v = { s with arg1 := v } := rfl
@[simp] theorem setArg_2 (v : Word) (s : State) : s.setArg 2 v = { s with arg2 := v } := rfl

/-- The fields of the state of a build right after reset that are not constants of the build (10_state.md R43). -/
@[simp] theorem resetWith_params (p : Params) : (State.resetWith p).params = p := rfl

@[simp] theorem resetWith_mem (p : Params) : (State.resetWith p).mem = [] := rfl

@[simp] theorem resetWith_status (p : Params) : (State.resetWith p).status = Status.reset := rfl

end Sys2Proof.Machine
end

