-- ==== Sys2Proof/Laws/Ops.lean ====
section
/-! SUPPORT. What each shared operation can do, said once: if it answers a next state, one of these cases holds. -/

namespace Sys2Proof.Machine

/-- While FAULTED a command leaves the state as it is. -/
theorem unlessFaulted_of_faulted {s : State} {run : Result} (h : s.status.fault = true) :
    unlessFaulted s run = .next s := by simp [unlessFaulted, h]

/-- While not FAULTED a command runs. -/
theorem unlessFaulted_of_running {s : State} {run : Result} (h : s.status.fault = false) :
    unlessFaulted s run = run := by simp [unlessFaulted, h]

/-- A command either is ignored or runs. -/
theorem unlessFaulted_next {s t : State} {run : Result} :
    unlessFaulted s run = .next t ↔
      (s.status.fault = true ∧ t = s) ∨ (s.status.fault = false ∧ run = .next t) := by
  cases h : s.status.fault <;> simp [unlessFaulted, h, eq_comm]

/-- A Q15 command writes RES and nothing else. -/
theorem q15Command_next {op : Int → Int → Int} {s t : State} (h : q15Command op s = .next t) :
    t = s ∨ t = s.setRes (sext32OfBits16 (op (s16 s.arg0) (s16 s.arg1))) := by
  rcases unlessFaulted_next.mp h with ⟨_, h⟩ | ⟨_, h⟩
  · exact .inl h
  · exact .inr (by injection h with h; exact h.symm)

/-- The estimate commands' checks pass. -/
theorem estimateCheck_eq_none {s : State} :
    estimateCheck s = none ↔
      s.status.detCfg = true ∧ 1 ≤ s.arg0.toNat ∧ s.arg0.toNat ≤ 2 ^ 24 := by
  cases h : s.status.detCfg <;> simp [estimateCheck, h, u32, Config.maxSampleRate] ; omega

/-- The estimate commands' checks fail, with the first cause that applies. -/
theorem estimateCheck_eq_some {s : State} {c : Cause} (h : estimateCheck s = some c) :
    (s.status.detCfg = false ∧ c = .detUnconfigured) ∨
      (s.status.detCfg = true ∧ (s.arg0.toNat < 1 ∨ 2 ^ 24 < s.arg0.toNat) ∧ c = .badSampleRate) := by
  unfold estimateCheck at h
  split_ifs at h with h1 h2
  · exact .inl ⟨h1, by injection h with h; exact h.symm⟩
  · exact .inr ⟨by simpa using h1, h2, by injection h with h; exact h.symm⟩

/-- An estimate command is ignored, faults, or applies its policy to one core estimate. -/
theorem estimateCommand_next {policy : Word → State → State} {s t : State} (h : estimateCommand policy s = .next t) :
    (s.status.fault = true ∧ t = s) ∨
      (s.status.fault = false ∧ ∃ c, estimateCheck s = some c ∧ t = takeFault c s) ∨
      (s.status.fault = false ∧ estimateCheck s = none ∧
        t = policy (estimate s.arg0.toNat s).1 (estimate s.arg0.toNat s).2) := by
  rcases unlessFaulted_next.mp h with h | ⟨hf, h⟩
  · exact .inl h
  · cases hc : estimateCheck s with
    | some c =>
      rw [hc] at h
      exact .inr (.inl ⟨hf, c, rfl, by injection h with h; exact h.symm⟩)
    | none =>
      rw [hc] at h
      exact .inr (.inr ⟨hf, rfl, by injection h with h; exact h.symm⟩)

/-- An estimate command whose checks pass answers its policy's state. -/
theorem estimateCommand_of_check {policy : Word → State → State} {s : State} (hf : s.status.fault = false)
    (hc : estimateCheck s = none) :
    estimateCommand policy s = .next (policy (estimate s.arg0.toNat s).1 (estimate s.arg0.toNat s).2) := by
  simp only [estimateCommand, unlessFaulted_of_running hf, hc, u32]

/-- What a confirmed estimate returns and leaves (41_pitch_detector.md R100, R102). -/
theorem estimate_confirmed {fs pm l : Nat} {s : State} (h : scanOf fs s = .confirmed pm l) :
    estimate fs s = (freqOf fs pm l,
      { s with
        lastMode := BitVec.ofNat 32 pm
        lastFreq := freqOf fs pm l
        ring := s.ring.set s.ringPtr.toNat (freqOf fs pm l)
        ringPtr := BitVec.ofNat 32 ((s.ringPtr.toNat + 1) % 5)
        status := { s.status with conf := true }
        scratch := Config.freeScratch s.freeCount
        freeCount := s.freeCount + 1 }) := by
  simp only [estimate, h, settleScan]
  rfl

/-- What a pitchless estimate returns and leaves (41_pitch_detector.md R102, R103). -/
theorem estimate_pitchless {fs : Nat} {s : State} (h : scanOf fs s = .pitchless) :
    estimate fs s = (0,
      { s with
        ring := s.ring.set s.ringPtr.toNat 0
        ringPtr := BitVec.ofNat 32 ((s.ringPtr.toNat + 1) % 5)
        status := { s.status with conf := false }
        scratch := Config.freeScratch s.freeCount
        freeCount := s.freeCount + 1 }) := by
  simp only [estimate, h, settleScan]
  rfl

/-- The fields a core estimate never writes (41_pitch_detector.md R104). -/
theorem estimate_frame (fs : Nat) (s : State) :
    ((estimate fs s).2.arg0 = s.arg0 ∧ (estimate fs s).2.arg1 = s.arg1 ∧ (estimate fs s).2.arg2 = s.arg2) ∧
      (estimate fs s).2.res = s.res ∧ (estimate fs s).2.detLevels = s.detLevels ∧ (estimate fs s).2.detN = s.detN ∧
      (estimate fs s).2.shfN = s.shfN ∧ (estimate fs s).2.heldFreq = s.heldFreq ∧
      (estimate fs s).2.params = s.params ∧ (estimate fs s).2.mem = s.mem ∧ (estimate fs s).2.host = s.host := by
  cases h : scanOf fs s with
  | confirmed pm l => simp [estimate_confirmed h]
  | pitchless => simp [estimate_pitchless h]

/-- DET_CONFIG is ignored, configures the detector, or faults (41_pitch_detector.md R78). -/
theorem execDetConfig_next {s t : State} (h : execDetConfig s = .next t) :
    (s.status.fault = true ∧ t = s) ∨
      (s.status.fault = false ∧ detConfigValid (clampedLevels s) (clampedLength s.params (s32 s.arg1)) = true ∧
        t = (s.configureDetector (clampedLevels s) (clampedLength s.params (s32 s.arg1))).setRes
          (halves (clampedLength s.params (s32 s.arg1)) (clampedLevels s))) ∨
      (s.status.fault = false ∧ detConfigValid (clampedLevels s) (clampedLength s.params (s32 s.arg1)) = false ∧
        t = takeFault .detBadConfig s) := by
  rcases unlessFaulted_next.mp h with h | ⟨hf, h⟩
  · exact .inl h
  · by_cases hv : detConfigValid (clampedLevels s) (clampedLength s.params (s32 s.arg1)) = true
    · exact .inr (.inl ⟨hf, hv, by simp only [hv] at h; injection h with h; exact h.symm⟩)
    · simp only [hv] at h
      exact .inr (.inr ⟨hf, by simpa using hv, by injection h with h; exact h.symm⟩)

/-- A clamp to a range that is not empty stays in it. -/
theorem clamp_mem (v : Int) {lo hi : Int} (h : lo ≤ hi) : lo ≤ clamp v lo hi ∧ clamp v lo hi ≤ hi := by
  simp only [clamp]
  omega

/-- SHF_CONFIG is ignored or configures the shifter (43_pitch_shifter.md R110). -/
theorem execShfConfig_next {s t : State} (h : execShfConfig s = .next t) :
    (s.status.fault = true ∧ t = s) ∨
      (s.status.fault = false ∧
        t = ((s.configureShifter (clampedLength s.params (s32 s.arg0))).setMem
          (clearShifterBuffers s.params s.mem)).setRes (BitVec.ofNat 32 (clampedLength s.params (s32 s.arg0)))) := by
  rcases unlessFaulted_next.mp h with h | ⟨hf, h⟩
  · exact .inl h
  · exact .inr ⟨hf, by injection h with h; exact h.symm⟩

/-- SHF_CORRECT is ignored, faults, or corrects the frame (43_pitch_shifter.md R112). -/
theorem execShfCorrect_next {s t : State} (h : execShfCorrect s = .next t) :
    (s.status.fault = true ∧ t = s) ∨
      (s.status.fault = false ∧ ∃ c, shiftChecks s = .error c ∧ t = takeFault c s) ∨
      (s.status.fault = false ∧ ∃ p, shiftChecks s = .ok p ∧
        t = (s.setMem (correctFrame s.shfN.toNat p s.mem)).setRes (halves p.ss p.s)) := by
  rcases unlessFaulted_next.mp h with h | ⟨hf, h⟩
  · exact .inl h
  · cases hc : shiftChecks s with
    | error c =>
      rw [hc] at h
      exact .inr (.inl ⟨hf, c, rfl, by injection h with h; exact h.symm⟩)
    | ok p =>
      rw [hc] at h
      exact .inr (.inr ⟨hf, p, rfl, by injection h with h; exact h.symm⟩)

/-- What the shifter's checks establish when they pass (43_pitch_shifter.md R113, R114). -/
theorem shiftChecks_ok {s : State} {p : Shift} (h : shiftChecks s = .ok p) :
    s.status.shfCfg = true ∧ 1 ≤ s.arg0.toNat ∧ s.arg0.toNat ≤ 2 ^ 24 ∧ (f32 s.arg1).isPositive = true ∧
      (f32 s.arg2).isPositive = true ∧ (periodQuotient s.arg0.toNat (f32 s.arg1)).isFinite = true ∧
      (shiftProduct p.s (scalingFactor (f32 s.arg1) (f32 s.arg2))).isFinite = true ∧
      p.s = analysisShift (periodQuotient s.arg0.toNat (f32 s.arg1)) ∧
      p = shiftOf p.s (shiftProduct p.s (scalingFactor (f32 s.arg1) (f32 s.arg2))).roundAway.toNat s.shfN.toNat ∧
      p.l ≤ s.shfN.toNat ∧ p.ss ≤ 65535 ∧ lastAccIndex p < 2 * s.shfN.toNat := by
  simp only [shiftChecks] at h
  split_ifs at h with h1 h2 h3 h4 h5
  injection h with h
  subst h
  simp only [Bool.or_eq_true, Bool.not_eq_true', decide_eq_true_eq, not_or, Bool.not_eq_false, not_lt, not_le] at h1 h2 h3 h4 h5
  exact ⟨h1, h2.1, h2.2, h3.1, h3.2, h4.1, h5.1.1, rfl, rfl, h4.2, h5.1.2, h5.2⟩

/-- Why the shifter's checks fail: each cause is one of the five of 43_pitch_shifter.md R114. -/
theorem shiftChecks_error {s : State} {c : Cause} (h : shiftChecks s = .error c) :
    c = .shfUnconfigured ∨ c = .badSampleRate ∨ c = .badPitch ∨ c = .psolaWindow ∨ c = .psolaRange := by
  simp only [shiftChecks] at h
  split_ifs at h <;> injection h with h <;> simp [← h]

/-- A register stands at its own offset and at no other. -/
theorem regAtOffset_eq_some {a : Nat} {r : Reg} : regAtOffset a = some r ↔ a = regOffset r := by
  constructor
  · intro h
    unfold regAtOffset at h
    split at h <;> first | contradiction | (injection h with h; subst h; rfl)
  · rintro rfl
    cases r <;> rfl

/-- An access reaches an element only at that element's address and inside the buffer (20_memory.md R45). -/
theorem elemAtAddr_eq_some {p : Params} {a i : Nat} {b : Buf} (h : elemAtAddr p a = some (b, i)) :
    a = elemAddr b i ∧ i < Buf.length p b := by
  simp only [elemAtAddr] at h
  split_ifs at h <;> injection h with h <;> injection h with h1 h2 <;> subst h1 h2 <;>
    simp only [elemAddr, bufBase, Buf.length] <;> omega

/-- A data write writes one argument register, one element of FRAME, or nothing (20_memory.md R48). -/
theorem memWriteData_cases (addr n : Nat) (v : Word) (s : State) :
    memWriteData addr n v s = s ∨ memWriteData addr n v s = { s with arg0 := v } ∨
      memWriteData addr n v s = { s with arg1 := v } ∨ memWriteData addr n v s = { s with arg2 := v } ∨
      ∃ i, addr = elemAddr .frame i ∧ i < s.params.maxWindow ∧
        memWriteData addr n v s = s.setMem (writeElem .frame i (v.extractLsb' 0 16) s.mem) := by
  unfold memWriteData
  split_ifs
  · split <;> simp
  · split
    · rename_i i h
      exact .inr (.inr (.inr (.inr ⟨i, (elemAtAddr_eq_some h).1, (elemAtAddr_eq_some h).2, rfl⟩)))
    · exact .inl rfl
  · exact .inl rfl

/-- A host read changes the host's side and, while BUSY, the free value's counter; nothing else. -/
theorem hostRead_eq (addr n : Nat) (s : State) (h : s.status.busy = false) :
    hostRead addr n s = s.logRead (memRead s addr n) := by
  simp [hostRead, h]

/-- A CMD write when the block is not busy: the decoded command, or ILLEGAL_CMD. -/
theorem issueCommand_of_idle {w : Word} {s : State} (h : s.status.busy = false) :
    issueCommand w s =
      match decode w with
      | some i => exec i s
      | none => unlessFaulted s (.next (takeFault .illegalCmd s)) := by
  simp only [issueCommand, h]
  rfl

/-- A step performs the host's next event, or leaves the state when the run has ended. -/
theorem step_of_event {s : State} {e : HostEvent} (h : s.host.program[s.host.position]? = some e) :
    step s = performEvent e s.advance := by
  simp [step, runNextEvent, h]

theorem step_of_end {s : State} (h : s.host.program[s.host.position]? = none) : step s = .next s := by
  simp [step, runNextEvent, h]

end Sys2Proof.Machine
end

