-- ==== Sys2Proof/Laws/PerInstr.lean ====
section
/-! SUPPORT. Statements for all instructions, one lemma per constructor: the command's word decodes to the command, and is a
legal command word (30_encoding.md R61, R63). -/

namespace Sys2Proof.Laws.RoundTrip

/-- The word written for a command is legal and decodes to that command. -/
def Statement (i : Instr) : Prop := i.wf = true → decode (encode i) = some i ∧ commandWordWf (encode i) = true

theorem nop : Statement .nop := fun _ => by decide
theorem q15mul : Statement .q15mul := fun _ => by decide
theorem q15addw : Statement .q15addw := fun _ => by decide
theorem q15adds : Statement .q15adds := fun _ => by decide
theorem detConfig : Statement .detConfig := fun _ => by decide
theorem detEst : Statement .detEst := fun _ => by decide
theorem detEstMed : Statement .detEstMed := fun _ => by decide
theorem detEstLast : Statement .detEstLast := fun _ => by decide
theorem detEstOct : Statement .detEstOct := fun _ => by decide
theorem detEstRob : Statement .detEstRob := fun _ => by decide
theorem shfConfig : Statement .shfConfig := fun _ => by decide
theorem shfCorrect : Statement .shfCorrect := fun _ => by decide
theorem sreset : Statement .sreset := fun _ => by decide

end Sys2Proof.Laws.RoundTrip
end

