-- ==== Sys2Proof/Machine/HostProgram.lean ====
section
/-! DEFINITION. Host programs: the access each line stands for and the expansion of the pseudo-instructions
(30_encoding.md R66 to R68). -/

namespace Sys2Proof.Machine

/-- The 32-bit word of a written value (R66): a decimal mod 2^32, a hexadecimal word, or the binary32 pattern of a decimal
rounded to nearest-even. -/
def valueWord : Value → Word
  | .dec z => BitVec.ofInt 32 z
  | .hex w => w
  | .flt neg digits scale => (F32.round neg (2 ^ 149 * digits) (10 ^ scale)).toBits

/-- The host access of a line (R66); `wait` performs none (R68). -/
def lineEvent : Line → HostEvent
  | .wr r v => .write (regOffset r) 4 (valueWord v)
  | .wrs i v => .write (elemAddr .frame i) 2 (((valueWord v).extractLsb' 0 16).setWidth 32)
  | .rd r => .read (regOffset r) 4
  | .rds b i => .read (elemAddr b i) 2
  | .cmd i => .write (regOffset .cmd) 4 (encode i)
  | .cmdWord v => .write (regOffset .cmd) 4 (valueWord v)
  | .wait => .wait

/-- `cmd MNEMONIC; wait` after the operand writes: the shape of R67's expansions. -/
def command (i : Instr) (operands : List (Reg × Value)) : List Line :=
  operands.map (fun o => Line.wr o.1 o.2) ++ [.cmd i, .wait]

/-- The expansion of a pseudo-instruction (R67). -/
def expandPseudo : Pseudo → List Line
  | .nop => command .nop []
  | .sreset => command .sreset []
  | .q15mul a b => command .q15mul [(.arg0, a), (.arg1, b)]
  | .q15addw a b => command .q15addw [(.arg0, a), (.arg1, b)]
  | .q15adds a b => command .q15adds [(.arg0, a), (.arg1, b)]
  | .detConfig lv n => command .detConfig [(.arg0, lv), (.arg1, n)]
  | .detEst fs => command .detEst [(.arg0, fs)]
  | .detEstMed fs => command .detEstMed [(.arg0, fs)]
  | .detEstLast fs => command .detEstLast [(.arg0, fs)]
  | .detEstOct fs => command .detEstOct [(.arg0, fs)]
  | .detEstRob fs => command .detEstRob [(.arg0, fs)]
  | .shfConfig n => command .shfConfig [(.arg0, n)]
  | .shfCorrect fs fin fdes => command .shfCorrect [(.arg0, fs), (.arg1, fin), (.arg2, fdes)]
  | .frameLoad vs => vs.zipIdx.map (fun v => Line.wrs v.2 v.1)

/-- The events of a host program: one for each line, in order (R69). -/
def programEvents (lines : List Line) : List HostEvent := lines.map lineEvent

/-- The host about to run a program from its first line. -/
def State.withProgram (lines : List Line) (s : State) : State :=
  { s with host := { s.host with program := programEvents lines, position := 0 } }

end Sys2Proof.Machine
end

