-- ==== Sys2Proof/Tests/Slice0.lean ====
section
/-! SUPPORT. The model's own tests. Expected values come from spec/95_test_vectors.md or are worked out by hand from the
rule named; none is the model's own answer. The second half shows, for each statement with hypotheses, a state that meets
them (`witness_<statement>`). -/

namespace Sys2Proof.Tests

open Sys2Proof.Machine

/-- A check on the next state of an answer. -/
def holdsNext (check : State → Bool) : Result → Bool
  | .next t => check t
  | .fault _ => false
  | .refused _ => false

/-- A block after reset whose operands are given. -/
def withArgs (a b c : Word) (s : State) : State := { s with arg0 := a, arg1 := b, arg2 := c }

/-- A block with a configured detector, about to run an estimate at 8000 Hz. -/
def detector (levels n : Word) (m : Memory) : State :=
  { State.reset with arg0 := 8000, detLevels := levels, detN := n, mem := m, status := { Status.reset with detCfg := true } }

/-- A block with a configured shifter and the operands of SHF_CORRECT. -/
def shifter (n fs fin fdes : Word) (m : Memory) : State :=
  { State.reset with
    arg0 := fs, arg1 := fin, arg2 := fdes, shfN := n, mem := m, status := { Status.reset with shfCfg := true } }

/-- The canonical bytes of a list of samples laid at an element of a buffer. -/
def cellsAt (b : Buf) (j : Nat) (xs : List Int) : Memory :=
  (xs.zipIdx.flatMap fun e =>
    [(elemAddr b (j + e.2), (bits16 e.1).extractLsb' 0 8), (elemAddr b (j + e.2) + 1, (bits16 e.1).extractLsb' 8 8)]).filter
    fun c => c.2 ≠ 0

/-- The square wave of amplitude 1000 and the given period (95_test_vectors.md's SQ16, SQ8). -/
def square (period n : Nat) : List Int := (List.range n).map fun i => if i % period < period / 2 then 1000 else -1000

/-- `F1` of 95_test_vectors.md. -/
def frameOne : List Int := [1000, 2000, 3000, 4000, 5000, 6000, 7000, 8000]

/-- A block whose host is about to do one thing. -/
def about (e : HostEvent) (s : State) : State := { s with host := ⟨[e], 0, []⟩ }

/-- A faulted block. -/
def faulted : State := takeFault .illegalCmd State.reset

/-! ### Decoding: each word written out from R63's table, and words R61 refuses -/

theorem test_decode_nop : decode 0b00000000000000000000000000000000 = some .nop := by decide
theorem test_decode_q15mul : decode 0b00000000000000000000000000000001 = some .q15mul := by decide
theorem test_decode_q15addw : decode 0b00000000000000000000000000000010 = some .q15addw := by decide
theorem test_decode_q15adds : decode 0b00000000000000000000000000000011 = some .q15adds := by decide
theorem test_decode_detConfig : decode 0b00000000000000000000000000010000 = some .detConfig := by decide
theorem test_decode_detEst : decode 0b00000000000000000000000000010001 = some .detEst := by decide
theorem test_decode_detEstMed : decode 0b00000000000000000000000000010010 = some .detEstMed := by decide
theorem test_decode_detEstLast : decode 0b00000000000000000000000000010011 = some .detEstLast := by decide
theorem test_decode_detEstOct : decode 0b00000000000000000000000000010100 = some .detEstOct := by decide
theorem test_decode_detEstRob : decode 0b00000000000000000000000000010101 = some .detEstRob := by decide
theorem test_decode_shfConfig : decode 0b00000000000000000000000000100000 = some .shfConfig := by decide
theorem test_decode_shfCorrect : decode 0b00000000000000000000000000100001 = some .shfCorrect := by decide
theorem test_decode_sreset : decode 0b00000000000000000000000011111111 = some .sreset := by decide

/-- 0x000001FF is not SRESET (44_system.md R123), and 0x16 is not assigned. -/
theorem test_decode_rejects :
    decodeWord 0x000001FF = .error .reservedBitsSet ∧ decodeWord 0x00000016 = .error .unassignedOpcode := by decide

theorem test_decode_tableWord : decodeTableWord 32 0x21 = some .shfCorrect ∧ decodeTableWord 8 0x10 = some .detConfig := by
  decide

/-- SHF_CONFIG as the first command after reset: ARG0 is 0, so the length clamps to 4 (R110). -/
theorem test_step_fetches : holdsNext (fun t => t.res = 4) (step (State.reset.withFetchWord 32 0x20)) = true := by decide

/-! ### Well-formedness: one ill-formed term for each check -/

theorem test_reference_legal : Config.reference.legal = true := by decide
theorem test_illegal_levels : { Config.reference with maxLevels := 16 }.legal = false := by decide
theorem test_illegal_no_levels : { Config.reference with maxLevels := 0 }.legal = false := by decide
theorem test_illegal_window : { Config.reference with maxWindow := 2049 }.legal = false := by decide
theorem test_illegal_small_window : { Config.reference with maxWindow := 7 }.legal = false := by decide
theorem test_illegal_frequency : { Config.reference with maxFrequency := 0 }.legal = false := by decide
theorem test_illegal_big_frequency : { Config.reference with maxFrequency := 2 ^ 24 + 1 }.legal = false := by decide
theorem test_illegal_tolerance :
    finiteNonneg 0x7F800000 = false ∧ finiteNonneg 0x7FC00000 = false ∧ finiteNonneg 0xBF800000 = false := by decide
theorem test_ill_formed_words : commandWordWf 0x00000105 = false ∧ commandWordWf 0x00000004 = false := by decide
theorem test_ill_formed_lines :
    Line.wf Config.reference (.wr .res (.dec 5)) = false ∧ Line.wf Config.reference (.wrs 1024 (.dec 0)) = false ∧
      Line.wf Config.reference (.rds .hist 2048) = false := by decide

/-! ### Host accesses (95_test_vectors.md 2.8) -/

theorem test_parameter_registers :
    memRead State.reset 0x048 4 = 6 ∧ memRead State.reset 0x04C 4 = 1024 ∧ memRead State.reset 0x050 4 = 3000 ∧
      memRead State.reset 0x054 4 = 0x40A00000 ∧ memRead State.reset 0x058 4 = 0 := by decide

theorem test_frame_access :
    let s := memWriteData 0x1000 2 0x8000 State.reset
    memRead s 0x1000 2 = 0x8000 ∧ memRead s 0x1000 4 = 0 ∧ memRead s 0x1001 2 = 0 ∧ sampleAt s.mem .frame 0 = -32768 := by
  decide

theorem test_unsupported_access :
    memRead (memWriteData 0x004 2 7 State.reset) 0x004 4 = 0 ∧ memRead (memWriteData 0x2000 2 1 State.reset) 0x2000 2 = 0 ∧
      memRead State.reset (0x1000 + 2 * 1024) 2 = 0 ∧ memRead State.reset 0x05C 4 = 0 := by decide

/-- STATUS after ILLEGAL_CMD is 0x102, after DET_BAD_CONFIG on a configured detector 0x306. -/
theorem test_status_word :
    statusWord faulted.status = 0x102 ∧ statusWord (takeFault .detBadConfig (detector 0 0 [])).status = 0x306 := by decide

/-- `f:4000` is 0x457A0000, and -3 is taken mod 2^32 (30_encoding.md R66; 95_test_vectors.md 2.7). -/
theorem test_values : valueWord (.flt false 4000 0) = 0x457A0000 ∧ valueWord (.dec (-3)) = 0xFFFFFFFD := by decide +kernel

/-- `q15mul a, b` expands to two operand writes, the command and a wait (R67). -/
theorem test_pseudo :
    programEvents (expandPseudo (.q15mul (.dec 1) (.dec 2))) =
      [.write 0x004 4 1, .write 0x008 4 2, .write 0x000 4 1, .wait] := by decide

/-! ### Commands, one step each -/

/-- R122's example. -/
theorem test_nop : holdsNext (fun t => t.res = 0x2000) (exec .nop { State.reset with res := 0x2000 }) = true := by decide

/-- R123's example: STATUS 0x106 becomes 0. -/
theorem test_sreset :
    holdsNext (fun t => statusWord t.status = 0 && t.detN = 0)
      (exec .sreset (takeFault .illegalCmd (detector 2 64 []))) = true := by decide

/-- 95_test_vectors.md 2.1: bits 31:16 are ignored. -/
theorem test_q15mul : holdsNext (fun t => t.res = 0x2000)
    (exec .q15mul (withArgs 0x12344000 0xABCD4000 0 State.reset)) = true := by decide

/-- 2.1: (-1) * (-1) wraps, and a tie rounds up. -/
theorem test_q15mul_corners :
    q15mul (-32768) (-32768) = -32768 ∧ q15mul (-1) 16384 = 0 ∧ q15mul 12345 (-6789) = -2558 := by decide

theorem test_q15addw : holdsNext (fun t => t.res = 0xFFFF8000)
    (exec .q15addw (withArgs 0x00017FFF 0xFFFF0001 0 State.reset)) = true := by decide

theorem test_q15adds : holdsNext (fun t => t.res = 0xFFFF9C40)
    (exec .q15adds (withArgs 0x4E20 0x4E20 0 State.reset)) = true := by decide

/-- 95_test_vectors.md 2.2: (100, 5000) clamps to (6, 1024). -/
theorem test_detConfig :
    holdsNext (fun t => t.res = 0x04000006 && t.detLevels = 6 && t.detN = 1024 && statusWord t.status = 0x004)
      (exec .detConfig (withArgs 100 5000 0 State.reset)) = true := by decide

/-- 2.2: (4, 100) is not valid, since 100 mod 8 = 4. -/
theorem test_detConfig_invalid :
    holdsNext (fun t => t.res = 0 && t.detN = 0 && statusWord t.status = 0x302)
      (exec .detConfig (withArgs 4 100 0 State.reset)) = true := by decide

/-- 2.3: DET_CONFIG(3, 64), SQ16 at 8000 Hz gives 500.0, confirmed at level 1 from the mode 8. -/
theorem test_detEst :
    holdsNext (fun t => t.res = 0x43FA0000 && t.lastMode = 8 && t.ring.r0 = 0x43FA0000 && statusWord t.status = 0x014)
      (exec .detEst (detector 3 64 (cellsAt .frame 0 (square 16 64)))) = true := by decide +kernel

/-- 2.3b: an unconfigured detector has priority over a bad sample rate. -/
theorem test_detEst_unconfigured :
    holdsNext (fun t => statusWord t.status = 0x202) (exec .detEst State.reset) = true := by decide

/-- 2.4, call 3 of the median policy, by hand: the ring holds 500, 500 and this call pushes 0, so the median is 0; with a
third 500 it is 500. -/
theorem test_detEstMed :
    holdsNext (fun t => t.res = 0 && t.ringPtr = 3)
      (exec .detEstMed { detector 0 64 [] with ring := ⟨0x43FA0000, 0x43FA0000, 0, 0, 0⟩, ringPtr := 2 }) = true ∧
    holdsNext (fun t => t.res = 0x43FA0000)
      (exec .detEstMed { detector 0 64 [] with ring := ⟨0x43FA0000, 0x43FA0000, 0, 0x43FA0000, 0⟩, ringPtr := 4 }) = true := by
  decide +kernel

/-- R107's example: a pitchless call after a confirmed 100.0 returns 100.0. -/
theorem test_detEstLast :
    holdsNext (fun t => t.res = 0x42C80000) (exec .detEstLast { detector 0 64 [] with lastFreq := 0x42C80000 }) = true := by
  decide +kernel

/-- R108's corner case: a pitchless call drops a held 500.0 (above 2 * 5.0) and keeps a held 8.0. -/
theorem test_detEstOct :
    holdsNext (fun t => t.res = 0 && t.heldFreq = 0)
      (exec .detEstOct { detector 0 64 [] with heldFreq := 0x43FA0000 }) = true ∧
    holdsNext (fun t => t.res = 0x41000000 && t.heldFreq = 0x41000000)
      (exec .detEstOct { detector 0 64 [] with heldFreq := 0x41000000 }) = true := by decide +kernel

/-- 1.6: from 440.0 held, 880.0 is a jump and 440.0 is not; from nothing held, 440.0 is not. -/
theorem test_octaveJump :
    octaveJump 0x445C0000 0x43DC0000 0x40A00000 = true ∧ octaveJump 0x43DC0000 0x43DC0000 0x40A00000 = false ∧
      octaveJump 0x43DC0000 0 0x40A00000 = false := by decide +kernel

/-- R109's example: nothing in the ring, LAST_FREQ = 100.0, a pitchless call. -/
theorem test_detEstRob :
    holdsNext (fun t => t.res = 0x42C80000) (exec .detEstRob { detector 0 64 [] with lastFreq := 0x42C80000 }) = true := by
  decide +kernel

/-- R110's example, and a negative length clamps to 4. -/
theorem test_shfConfig :
    holdsNext (fun t => t.res = 0x40 && t.shfN = 64 && statusWord t.status = 0x008)
      (exec .shfConfig (withArgs 64 0 0 State.reset)) = true ∧
    holdsNext (fun t => t.res = 4) (exec .shfConfig (withArgs (-5) 0 0 State.reset)) = true := by decide

/-- 2.7 A, call 2 with fdes = 8000.0: the blocks pile up. -/
theorem test_shfCorrect :
    holdsNext (fun t => t.res = 0x00010002 &&
        (List.range 8).map (sampleAt t.mem .frame) == [0, 1000, 5000, 9000, 13000, 8000, 0, 0])
      (exec .shfCorrect (shifter 8 8000 0x457A0000 0x45FA0000 (cellsAt .hist 8 frameOne))) = true := by decide +kernel

/-- 2.5: a window longer than the frame is PSOLA_WINDOW (STATUS 0x70A). -/
theorem test_shfCorrect_window :
    holdsNext (fun t => statusWord t.status = 0x708 + 2)
      (exec .shfCorrect (shifter 64 8000 0x42C80000 0x42C80000 [])) = true := by decide +kernel

/-- 2.6: the windows of length 5 and 6. -/
theorem test_window :
    (List.range 5).map (windowValue 5) = [0, 16383, 32767, 16383, 0] ∧
      (List.range 6).map (windowValue 6) = [0, 13106, 32767, 32767, 13106, 0] := by decide

/-- 1.7: the pairs (-3, 0), (0, -3) and (-1, 0) halve to -2, -2 and -1. -/
theorem test_halve : halve [-3, 0, 0, -3, -1, 0] = [-2, -2, -1] := by decide

/-- 1.7: the refractory distances at 44100 Hz are 7, 3, 1. -/
theorem test_minDist : (List.range 3).map (minDist Config.reference 44100) = [7, 3, 1] := by decide

/-- 8000 / 12 is 666.66668701171875 in binary32, and the smallest subnormal overflows a division (2.3b, 2.5). -/
theorem test_float : freqOf 8000 6 1 = 0x4426AAAB ∧
    F32.div (F32.ofNat 500) (F32.ofBits 1) = .inf false := by decide +kernel

/-! ### Witnesses: a state that meets the hypotheses of each statement that has any -/

/-- A check of a list's words one by one (an instance over all words would be tried first). -/
theorem freqWords_of_all {l : List Word} (h : (l.all fun w => decide (FreqWord w)) = true) : ∀ w ∈ l, FreqWord w :=
  fun w hw => of_decide_eq_true (List.all_eq_true.mp h w hw)

theorem inv_reset : Inv State.reset := by
  constructor
  case freqs => exact freqWords_of_all (by decide +kernel)
  all_goals decide +kernel

theorem inv_detector : Inv (detector 0 64 []) := by
  constructor
  case freqs => exact freqWords_of_all (by decide +kernel)
  all_goals decide +kernel

theorem inv_shifter : Inv (shifter 4 8000 0x45FA0000 0x467A0000 []) := by
  constructor
  case freqs => exact freqWords_of_all (by decide +kernel)
  all_goals decide +kernel

theorem witness_StepRunsDecodedCommand :
    let s := about (.write (regOffset .cmd) 4 0x21) State.reset
    NextEvent s (.write (regOffset .cmd) 4 0x21) ∧ s.status.busy = false ∧ decode 0x21 = some .shfCorrect := by decide

/-- One word for each way of being illegal: a reserved bit set beside a legal opcode, and an unassigned opcode. -/
theorem witness_IllegalWordFaults :
    (let s := about (.write (regOffset .cmd) 4 0x00000100) State.reset
     NextEvent s (.write (regOffset .cmd) 4 0x00000100) ∧ s.status.busy = false ∧ s.status.fault = false ∧
       (0x00000100 : Word).toNat / 256 ≠ 0) ∧
    (let s := about (.write (regOffset .cmd) 4 0x000000FE) State.reset
     NextEvent s (.write (regOffset .cmd) 4 0x000000FE) ∧ s.status.busy = false ∧ s.status.fault = false ∧
       (0x000000FE : Word).toNat % 256 ∉ [0x00, 0x01, 0x02, 0x03, 0x10, 0x11, 0x12, 0x13, 0x14, 0x15, 0x20, 0x21, 0xFF]) := by
  decide

theorem witness_FaultedBlockIgnoresCommands :
    (let s := about (.write (regOffset .cmd) 4 0x000001FF) faulted
     s.status.fault = true ∧ s.status.busy = false ∧ NextEvent s (.write (regOffset .cmd) 4 0x000001FF) ∧
       (0x000001FF : Word) ≠ 0x000000FF) ∧
    (let s := about (.write (regOffset .cmd) 4 0x000000FF) faulted
     s.status.fault = true ∧ s.status.busy = false ∧ NextEvent s (.write (regOffset .cmd) 4 0x000000FF)) := by decide

/-- A step for each of the three outcomes: the platform's reset, SRESET, and an ignored command. -/
theorem witness_OnlyResetLeavesFaulted :
    ∀ e ∈ [HostEvent.hardReset, .write (regOffset .cmd) 4 0x000000FF, .write (regOffset .cmd) 4 0x10],
      (about e faulted).status.fault = true ∧ (about e faulted).status.busy = false ∧ NextEvent (about e faulted) e ∧
        ∃ t, step (about e faulted) = .next t := by
  intro e he
  refine ⟨rfl, rfl, rfl, ?_⟩
  simp only [List.mem_cons, List.not_mem_nil, or_false] at he
  rcases he with rfl | rfl | rfl <;> exact ⟨_, rfl⟩

theorem witness_RunEndsIdle : State.reset.host.program.length ≤ State.reset.host.position := by decide

theorem witness_SresetResetsTheBlock : NextEvent (about .hardReset faulted) .hardReset := by decide

theorem witness_ResetMeetsInvariant :
    ({ Config.reference with maxWindow := 2048, maxLevels := 15, maxFrequency := 2 ^ 24 } : Params).legal = true := by decide

theorem witness_StepKeepsInvariant : ∃ t, Inv State.reset ∧ step State.reset = .next t := ⟨_, inv_reset, rfl⟩

theorem witness_ParametersAreConstant :
    ∃ t, step (about (.write (regOffset .cmd) 4 0xFF) faulted) = .next t := ⟨_, rfl⟩

theorem witness_ScratchIsNeverRead :
    ∃ t, step (about (.write (regOffset .cmd) 4 0x11) (detector 0 64 [])) = .next t := ⟨_, rfl⟩

theorem witness_FaultsArePrecise :
    ∃ t, State.reset.status.busy = false ∧ State.reset.status.fault = false ∧ exec .detEst State.reset = .next t ∧
      t.status.fault = true := ⟨_, rfl, rfl, rfl, rfl⟩

theorem witness_CommandsKeepArguments :
    ∃ t, exec .shfConfig (withArgs 1 2 3 State.reset) = .next t ∧ Instr.shfConfig ≠ .sreset := ⟨_, rfl, by decide⟩

/-- A shifter command for the first clause, a detector command for the second, a Q15 command for the third. -/
theorem witness_UnitsKeepApart :
    (∃ t, exec .shfConfig State.reset = .next t ∧ Instr.shfConfig ≠ .sreset ∧ Instr.shfConfig ∉ detectorCommands) ∧
    (∃ t, exec .detConfig State.reset = .next t ∧ Instr.detConfig ≠ .sreset ∧ Instr.detConfig ∉ shifterCommands) ∧
    (∃ t, exec .q15adds State.reset = .next t ∧ Instr.q15adds ≠ .sreset ∧ Instr.q15adds ∈ q15Commands) :=
  ⟨⟨_, rfl, by decide⟩, ⟨_, rfl, by decide⟩, ⟨_, rfl, by decide⟩⟩

theorem witness_OnlyShifterCommandsWriteBuffers :
    ∃ t, exec .detEst (detector 0 64 []) = .next t ∧ Instr.detEst ∉ shifterCommands ∧ Instr.detEst ≠ .sreset :=
  ⟨_, rfl, by decide⟩

/-- The boundary addresses of each clause: the three argument registers, FRAME's first and last element, and the two
neighbours that no clause but the last takes. -/
theorem witness_HostWritesReachOnlyArgsAndFrame :
    ∀ e ∈ [(0x004, 4), (0x008, 4), (0x00C, 4), (0x1000, 2), (0x1000 + 2 * 1023, 2), (0x1000 + 2 * 1024, 2), (0x010, 4)],
      NextEvent (about (.write e.1 e.2 7) State.reset) (.write e.1 e.2 7) ∧ State.reset.status.busy = false ∧
        ¬(e.1 = 0x000 ∧ e.2 = 4) ∧ State.reset.mem.wf ∧ State.reset.params.maxWindow ≤ 2048 := by decide

/-- A register, a buffer's last element, and an address past it. -/
theorem witness_HostReadsHaveNoSideEffect :
    State.reset.status.busy = false ∧ State.reset.params.legal = true ∧
      NextEvent (about (.read 0x058 4) State.reset) (.read (regOffset .pOptions) 4) ∧
      NextEvent (about (.read 0x2FFE 2) State.reset) (.read (elemAddr .hist 2047) 2) ∧
      2047 < Buf.length State.reset.params .hist ∧ elemAtAddr State.reset.params 0x3000 = none ∧
      NextEvent (about (.read 0x3000 2) State.reset) (.read 0x3000 2) ∧
      NextEvent (about .wait State.reset) .wait := by decide

theorem witness_q15_commands : State.reset.status.fault = false := rfl

/-- The ends of a sample's range (the same range stands in the statement of Q15ADDS). -/
theorem witness_Q15mulCornerCases : (-32768 : Int) ≤ -32768 ∧ (-32768 : Int) ≤ 32767 ∧ (32767 : Int) ≤ 32767 := by decide

/-- The smallest valid configuration with a level (95_test_vectors.md 2.2), and one with no level. -/
theorem witness_DetConfigConfigures :
    (let s := withArgs 1 8 0 State.reset
     s.status.fault = false ∧ ((1 : Nat) : Int) = max 0 (min s.arg0.toInt s.params.maxLevels) ∧
       ((8 : Nat) : Int) = max 4 (min s.arg1.toInt s.params.maxWindow) ∧ 8 % 2 ^ (1 - 1) = 0 ∧ 4 ≤ 8 / 2 ^ 1) ∧
    (let s := withArgs (-3) (-7) 0 State.reset
     s.status.fault = false ∧ ((0 : Nat) : Int) = max 0 (min s.arg0.toInt s.params.maxLevels) ∧
       ((4 : Nat) : Int) = max 4 (min s.arg1.toInt s.params.maxWindow)) := by decide

/-- A length that is not divisible, and a deepest window below 4. -/
theorem witness_DetConfigRejects :
    (let s := withArgs 6 255 0 State.reset
     s.status.fault = false ∧ ((6 : Nat) : Int) = max 0 (min s.arg0.toInt s.params.maxLevels) ∧
       ((255 : Nat) : Int) = max 4 (min s.arg1.toInt s.params.maxWindow) ∧ 255 % 2 ^ (6 - 1) ≠ 0) ∧
    (let s := withArgs 1 4 0 State.reset
     s.status.fault = false ∧ ((1 : Nat) : Int) = max 0 (min s.arg0.toInt s.params.maxLevels) ∧
       ((4 : Nat) : Int) = max 4 (min s.arg1.toInt s.params.maxWindow) ∧ 4 / 2 ^ 1 < 4) := by decide

/-- The two ends outside the rates' range. -/
theorem witness_EstimateCommandsCheckFirst :
    Instr.detEstRob ∈ estimateCommands ∧ State.reset.status.fault = false ∧ State.reset.status.detCfg = false ∧
      (let s := withArgs 0 0 0 (detector 0 64 [])
       s.status.fault = false ∧ s.status.detCfg = true ∧ s.arg0.toNat < 1) ∧
      (let s := withArgs 0x01000001 0 0 (detector 0 64 [])
       s.status.fault = false ∧ s.status.detCfg = true ∧ 2 ^ 24 < s.arg0.toNat) := by decide +kernel

/-- The hypotheses the estimate statements share, at both ends of the rates' range; and a state for each of the two results
of a level scan. -/
theorem witness_estimates :
    (let s := withArgs 1 0 0 (detector 0 64 [])
     s.status.fault = false ∧ s.status.detCfg = true ∧ 1 ≤ s.arg0.toNat ∧ s.arg0.toNat ≤ 2 ^ 24) ∧
    (let s := withArgs 0x01000000 0 0 (detector 0 64 [])
     s.status.fault = false ∧ s.status.detCfg = true ∧ 1 ≤ s.arg0.toNat ∧ s.arg0.toNat ≤ 2 ^ 24) := by decide +kernel

theorem witness_scan_pitchless : scanOf 8000 (detector 0 64 []) = .pitchless := by decide +kernel

theorem witness_scan_confirmed : scanOf 8000 (detector 2 32 (cellsAt .frame 0 (square 8 32))) = .confirmed 4 1 := by
  decide +kernel

theorem witness_FrequencyIsRoundedOnce :
    (1 ≤ 2 ^ 24 ∧ 2 ^ 24 ≤ 2 ^ 24) ∧ (1 ≤ 65535 ∧ 65535 < 2 ^ 16) ∧ 15 < 16 := by decide

/-- A quotient that overflows and one that does not. -/
theorem witness_RoundingIsNearestEven :
    roundMag (2 ^ 300) 1 = 0x7F800000 ∧ roundMag 1 2 < 0x7F800000 ∧ 1 ≠ roundMag 1 2 := by decide +kernel

theorem witness_ThresholdsAreOrdered : ([-5, 7] : List Int) ≠ [] := by decide

theorem witness_AcceptedExtremaAreSeparated :
    let c : WalkLimits := ⟨1, 0, 750, -750⟩
    1 ≤ c.md ∧ walk c .unknown (halve (square 8 32)) = ⟨.down, true, 0, [5, 9, 13], [3, 7, 11]⟩ := by decide +kernel

theorem witness_ConstantFrameIsPitchless :
    let s := detector 1 8 (cellsAt .frame 0 [1234, 1234, 1234, 1234, 1234, 1234, 1234, 1234])
    s.status.fault = false ∧ s.status.detCfg = true ∧ 1 ≤ s.arg0.toNat ∧ s.arg0.toNat ≤ 2 ^ 24 ∧
      ∀ i < s.detN.toNat, sampleAt s.mem .frame i = 1234 := by decide +kernel

/-- No level, and one. -/
theorem witness_OneLevelNeverConfirms :
    let s := detector 1 8 []
    s.status.fault = false ∧ s.status.detCfg = true ∧ 1 ≤ s.arg0.toNat ∧ s.arg0.toNat ≤ 2 ^ 24 ∧
      s.detLevels.toNat ≤ 1 ∧ (detector 0 8 []).detLevels.toNat = 0 := by decide +kernel

/-- Two states with one frame, for each of the two ways their LAST_MODE may stand. -/
theorem witness_EstimateDependsOnFrameAndConfiguration :
    let s := detector 1 8 (cellsAt .frame 0 [1, 2])
    let u := { s with lastMode := 7, res := 5 }
    s.status.fault = false ∧ u.status.fault = false ∧ s.status.detCfg = true ∧ u.arg0 = s.arg0 ∧ u.params = s.params ∧
      u.detN = s.detN ∧ u.detLevels = s.detLevels ∧ s.params.tieRef = .prevLevelMode ∧ s.lastMode ≠ 0xFFFFFFFF ∧
      u.lastMode ≠ 0xFFFFFFFF ∧ ∀ i < s.detN.toNat, readElem u.mem .frame i = readElem s.mem .frame i := by decide +kernel

theorem witness_MedianIsThirdSmallest :
    ∀ w ∈ (Machine.Ring.mk 0x43FA0000 0 0x447A0000 0x7F7FFFFF 1).toList, FreqWord w :=
  freqWords_of_all (by decide +kernel)

/-- The hypotheses of the octave and robust policies' statements. -/
theorem witness_policies_with_invariant :
    let s := detector 0 64 []
    Inv s ∧ s.status.fault = false ∧ s.status.detCfg = true ∧ 1 ≤ s.arg0.toNat ∧ s.arg0.toNat ≤ 2 ^ 24 :=
  ⟨inv_detector, by decide⟩

theorem witness_ShfConfigClearsTheHistory :
    let s := withArgs (-1) 0 0 State.reset
    s.status.fault = false ∧ ((4 : Nat) : Int) = max 4 (min s.arg0.toInt s.params.maxWindow) := by decide

/-- One state for each cause, in the order of R114 (95_test_vectors.md 2.5). -/
theorem witness_ShfCorrectChecksInOrder :
    holdsNext (fun t => t.status.cause = .shfUnconfigured) (exec .shfCorrect State.reset) = true ∧
    holdsNext (fun t => t.status.cause = .badSampleRate)
      (exec .shfCorrect (shifter 64 0 0x43FA0000 0x43FA0000 [])) = true ∧
    holdsNext (fun t => t.status.cause = .badPitch)
      (exec .shfCorrect (shifter 64 8000 0x80000000 0x43FA0000 [])) = true ∧
    holdsNext (fun t => t.status.cause = .psolaWindow)
      (exec .shfCorrect (shifter 64 8000 0x000001F4 0x43FA0000 [])) = true ∧
    holdsNext (fun t => t.status.cause = .psolaRange)
      (exec .shfCorrect (shifter 64 8000 0x43FA0000 0x00000001 [])) = true := by decide +kernel

/-- The shortest frame and window (2.5: N = 4, S = 1, L = 3), whose checks pass. -/
theorem witness_shift_passes :
    holdsNext (fun t => t.res = 0x00010001 && !t.status.fault)
      (exec .shfCorrect (shifter 4 8000 0x45FA0000 0x467A0000 [])) = true := by decide +kernel

theorem ok_of_toOption {e : Except Cause Shift} {p : Shift} (h : e.toOption = some p) : e = .ok p := by
  cases e <;> simp_all [Except.toOption]

theorem witness_ShfCorrect :
    Inv (shifter 4 8000 0x45FA0000 0x467A0000 []) ∧ (shifter 4 8000 0x45FA0000 0x467A0000 []).status.fault = false ∧
      shiftChecks (shifter 4 8000 0x45FA0000 0x467A0000 []) = .ok ⟨1, 1, 1, 3, 4⟩ :=
  ⟨inv_shifter, rfl, ok_of_toOption (by decide +kernel)⟩

theorem inv_otherHistory : Inv (shifter 4 8000 0x45FA0000 0x467A0000 (cellsAt .hist 0 [1])) := by
  constructor
  case freqs => exact freqWords_of_all (by decide +kernel)
  all_goals decide +kernel

/-- Two states that differ in the older half of the history only. -/
theorem witness_OutputDependsOnTwoFrames :
    let s := shifter 4 8000 0x45FA0000 0x467A0000 []
    let u := shifter 4 8000 0x45FA0000 0x467A0000 (cellsAt .hist 0 [1])
    Inv s ∧ Inv u ∧ shiftChecks s = .ok ⟨1, 1, 1, 3, 4⟩ ∧ shiftChecks u = .ok ⟨1, 1, 1, 3, 4⟩ ∧ u.shfN = s.shfN ∧
      readElem u.mem .hist 0 ≠ readElem s.mem .hist 0 ∧
      ∀ j < s.shfN.toNat, readElem u.mem .frame j = readElem s.mem .frame j ∧
        readElem u.mem .hist (s.shfN.toNat + j) = readElem s.mem .hist (s.shfN.toNat + j) :=
  ⟨inv_shifter, inv_otherHistory, ok_of_toOption (by decide +kernel), ok_of_toOption (by decide +kernel), by decide +kernel⟩

/-- A byte that none of the written elements holds: FRAME's element 4. -/
theorem witness_ShfCorrectKeepsOtherBytes :
    (∀ j < 4, ¬ByteOf .frame j 0x1008) ∧ (∀ j < 2 * 4, ¬ByteOf .hist j 0x1008 ∧ ¬ByteOf .acc j 0x1008) ∧
      (∀ j < 3, ¬ByteOf .win j 0x1008) := by decide

theorem witness_EqualPitchKeepsTheShift : PositiveWord 1 ∧ PositiveWord 0x7F7FFFFF ∧ 1364 ≤ 1364 := by decide

/-- The shortest odd and even windows. -/
theorem witness_WindowIsBartlett : 2 * 1 + 1 = 3 ∧ 2 * 2 = 4 ∧ 3 ≤ 3 ∧ 2 < 3 := by decide

theorem witness_PassesMatchTheLoopBound : 1 ≤ 1 ∧ 0 < 1 ∧ 1024 < 1025 := by decide

/-- The shortest frame and window that have a first difference. -/
theorem witness_LevelModeIsTheRefinedRawMode : 2 ≤ ([3, 5] : List Int).length := by decide

/-- The largest finite pattern. -/
theorem witness_ArithmeticRoundsOnce : 0x7F7FFFFF < 0x7F800000 ∧ (1 : Nat) ≠ 0 := by decide

end Sys2Proof.Tests
end

section
/-! PROOFS. Binary32 (00_scope.md R13): a pattern's exponent and significand, the rounding of a quotient, the operations on
finite values, and the two conversions to integers. -/

namespace Sys2Proof.Machine

/-! ### The rounding of a quotient to an integer -/

/-- A quotient midway between two integers is rounded to the even one. -/
theorem roundHalfEven_even_of_tie {n d : Nat} (hd : 0 < d)
    (h : 2 * ((d * roundHalfEven n d : Int) - n).natAbs = d) : roundHalfEven n d % 2 = 0 := by
  have hn : (d : Int) * (n / d : Nat) + (n % d : Nat) = n := by exact_mod_cast Nat.div_add_mod n d
  have hr := Nat.mod_lt n hd
  unfold roundHalfEven at *
  split_ifs at * with hc
  · rw [Nat.cast_succ, mul_add, mul_one] at h
    omega
  · omega

/-- No multiple of `d` is nearer to `n` than the rounded one, and if another is as near, the rounded quotient is even. -/
theorem roundHalfEven_nearest (n j : Nat) {d : Nat} (hd : 0 < d) :
    ((d * roundHalfEven n d : Int) - n).natAbs ≤ ((d * j : Int) - n).natAbs ∧
      (j ≠ roundHalfEven n d → ((d * roundHalfEven n d : Int) - n).natAbs = ((d * j : Int) - n).natAbs →
        roundHalfEven n d % 2 = 0) := by
  have htie := roundHalfEven_even_of_tie (n := n) hd
  have hhalf : 2 * ((d * roundHalfEven n d : Int) - n).natAbs ≤ d := by
    have hnear := roundHalfEven_near n hd
    zify at hnear
    omega
  have step {i k : Nat} (h : i < k) : (d : Int) * i + d ≤ d * k := by exact_mod_cast Nat.mul_le_mul_left d h
  rcases lt_trichotomy j (roundHalfEven n d) with hj | rfl | hj
  · have := step hj
    omega
  · exact ⟨le_rfl, fun h => absurd rfl h⟩
  · have := step hj
    omega

/-- Rounding reaches an even integer from half of one below it on. -/
theorem le_roundHalfEven_iff_of_even (n : Nat) {d q : Nat} (hd : 0 < d) (hq : q % 2 = 0) :
    q ≤ roundHalfEven n d ↔ 2 * (d * q) ≤ 2 * n + d := by
  have hn := Nat.div_add_mod n d
  have hr := Nat.mod_lt n hd
  unfold roundHalfEven
  rcases lt_trichotomy q (n / d + 1) with h | rfl | h
  · have := Nat.mul_le_mul_left d (Nat.le_of_lt_succ h)
    split_ifs <;> omega
  · rw [Nat.mul_add]
    split_ifs <;> omega
  · have := Nat.mul_le_mul_left d (Nat.succ_le_of_lt h)
    simp only [Nat.succ_eq_add_one, Nat.mul_add] at this
    split_ifs <;> omega

/-! ### Exponent and significand of a pattern -/

/-- A significand of at most 24 bits, or 2^24 as a rounding may leave it, over the unit `2 ^ e`: above the lowest exponent it
is normalised. -/
def IsSignificand (e r : Nat) : Prop := r ≤ 2 ^ 24 ∧ (e = 0 ∨ 2 ^ 23 ≤ r)

/-- The magnitude of a pattern as its layout gives it, for patterns past the finite ones too. -/
def patternMag (k : Nat) : Nat := if k < 2 ^ 23 then k else 2 ^ (k / 2 ^ 23 - 1) * (2 ^ 23 + k % 2 ^ 23)

/-- A significand added to its exponent field is the pattern of the significand's multiple of the unit. -/
theorem patternMag_add {e r : Nat} (h : IsSignificand e r) : patternMag (2 ^ 23 * e + r) = 2 ^ e * r := by
  obtain ⟨hle, hnorm⟩ := h
  unfold patternMag
  rcases Nat.lt_or_ge r (2 ^ 23) with hsub | hge
  · obtain rfl : e = 0 := by omega
    rw [if_pos (by omega)]
    simp
  rw [if_neg (by omega)]
  rcases Nat.eq_or_lt_of_le hle with rfl | hlt
  · rw [show (2 ^ 23 * e + 2 ^ 24) / 2 ^ 23 - 1 = e + 1 by omega, show (2 ^ 23 * e + 2 ^ 24) % 2 ^ 23 = 0 by omega,
      Nat.pow_succ, Nat.mul_assoc]
    rfl
  · rw [show (2 ^ 23 * e + r) / 2 ^ 23 - 1 = e by omega, show 2 ^ 23 + (2 ^ 23 * e + r) % 2 ^ 23 = r by omega]

/-- Every pattern has an exponent and a significand. -/
theorem exists_significand (k : Nat) : ∃ e r, r < 2 ^ 24 ∧ IsSignificand e r ∧ k = 2 ^ 23 * e + r := by
  refine ⟨k / 2 ^ 23 - 1, k - 2 ^ 23 * (k / 2 ^ 23 - 1), ?_, ⟨?_, ?_⟩, ?_⟩ <;> omega

/-- Patterns are in the order of their magnitudes. -/
theorem patternMag_strictMono : StrictMono patternMag := by
  refine strictMono_nat_of_lt_succ fun k => ?_
  obtain ⟨e, r, hlt, hsig, rfl⟩ := exists_significand k
  have hsucc : IsSignificand e (r + 1) := ⟨hlt, hsig.2.imp_right Nat.le_succ_of_le⟩
  rw [Nat.add_assoc, patternMag_add hsig, patternMag_add hsucc]
  exact Nat.mul_lt_mul_of_pos_left (Nat.lt_succ_self r) (Nat.two_pow_pos e)

/-- What a sign and a finite pattern stand for. -/
theorem ofBits_signedWord (neg : Bool) {k : Nat} (h : k < 0x7F800000) :
    F32.ofBits (signedWord neg k) = .finite neg (patternMag k) := by
  have hw : (signedWord neg k).toNat = (if neg then 2 ^ 31 else 0) + k := pack_toNat neg (by omega)
  have hneg : decide (2 ^ 31 ≤ (if neg then 2 ^ 31 else 0) + k) = neg := by
    cases neg
    · simpa using by omega
    · simp
  have he : ((if neg then 2 ^ 31 else 0) + k) / 2 ^ 23 % 2 ^ 8 = k / 2 ^ 23 := by
    cases neg <;> simp only [Bool.false_eq_true, if_true, if_false] <;> omega
  have hf : ((if neg then 2 ^ 31 else 0) + k) % 2 ^ 23 = k % 2 ^ 23 := by
    cases neg <;> simp only [Bool.false_eq_true, if_true, if_false] <;> omega
  simp only [F32.ofBits, patternMag, hw, hneg, he, hf]
  rw [if_neg (by omega)]
  split_ifs
  · rw [Nat.mod_eq_of_lt ‹_›]
  · omega
  · omega
  · rfl

/-- The magnitude of a finite pattern is its layout's. -/
theorem magOf_eq_patternMag {k : Nat} (h : k < 0x7F800000) : magOf k = patternMag k := by
  have hk := ofBits_signedWord false h
  simp only [signedWord, Bool.false_eq_true, if_false, Nat.zero_add] at hk
  simp only [magOf, hk]

/-! ### The rounding of a quotient to a pattern -/

/-- The significand that the rounding of `a / b` gives. -/
def roundedSignificand (a b : Nat) : Nat := roundHalfEven a (b * 2 ^ ulpShift a b)

theorem roundMag_eq_min (a b : Nat) :
    roundMag a b = min (2 ^ 23 * ulpShift a b + roundedSignificand a b) 0x7F800000 := rfl

/-- The truncated significand of a quotient has at most 24 bits. -/
theorem div_ulp_lt (a b : Nat) : a / (b * 2 ^ ulpShift a b) < 2 ^ 24 := by
  rw [← Nat.div_div_eq_div_mul, Nat.div_lt_iff_lt_mul (Nat.two_pow_pos _), ← Nat.pow_add]
  calc a / b < 2 ^ ((a / b).log2 + 1) := Nat.lt_log2_self
    _ ≤ 2 ^ (24 + ulpShift a b) := Nat.pow_le_pow_right (by omega) (by unfold ulpShift; omega)

/-- Above the lowest exponent the truncated significand of a quotient has its 24 bits. -/
theorem le_div_ulp {a b : Nat} (h : ulpShift a b ≠ 0) : 2 ^ 23 ≤ a / (b * 2 ^ ulpShift a b) := by
  have hlog : (a / b).log2 = 23 + ulpShift a b := by unfold ulpShift at *; omega
  have hne : a / b ≠ 0 := by
    intro h0
    rw [h0, Nat.log2_zero] at hlog
    omega
  rw [← Nat.div_div_eq_div_mul, Nat.le_div_iff_mul_le (Nat.two_pow_pos _), ← Nat.pow_add, ← hlog]
  exact Nat.log2_self_le hne

/-- The rounded significand fits over the quotient's unit. -/
theorem isSignificand_rounded (a b : Nat) : IsSignificand (ulpShift a b) (roundedSignificand a b) := by
  have hlt := div_ulp_lt a b
  have hcases := roundHalfEven_cases a (b * 2 ^ ulpShift a b)
  refine ⟨by unfold roundedSignificand; omega, or_iff_not_imp_left.mpr fun h => ?_⟩
  have := le_div_ulp h
  unfold roundedSignificand
  omega

/-- The unit of a value is the one its significand stands over, if that has at most 24 bits. -/
theorem ulpShift_mul {e r : Nat} (hlt : r < 2 ^ 24) (h : IsSignificand e r) : ulpShift (2 ^ e * r) 1 = e := by
  obtain ⟨-, rfl | hge⟩ := h
  · have : r.log2 < 24 := by
      rcases Nat.eq_zero_or_pos r with rfl | hpos
      · simp
      · exact (Nat.log2_lt hpos.ne').mpr hlt
    simp only [ulpShift, Nat.pow_zero, Nat.one_mul, Nat.div_one]
    omega
  · have hlog : r.log2 = 23 := (Nat.log2_eq_iff (by omega)).mpr ⟨hge, hlt⟩
    have hmul : (2 ^ e * r).log2 = 23 + e := by
      rw [Nat.log2_eq_iff (by positivity)]
      rw [Nat.log2_eq_iff (by omega)] at hlog
      constructor
      · rw [Nat.pow_add, Nat.mul_comm]
        exact Nat.mul_le_mul_left _ hge
      · rw [show 23 + e + 1 = e + 24 by omega, Nat.pow_add]
        exact Nat.mul_lt_mul_of_pos_left hlt (Nat.two_pow_pos e)
    simp [ulpShift, hmul]

/-- The value of a finite pattern rounds to the pattern. -/
theorem roundMag_patternMag {k : Nat} (h : k < 0x7F800000) : roundMag (patternMag k) 1 = k := by
  obtain ⟨e, r, hlt, hsig, rfl⟩ := exists_significand k
  rw [patternMag_add hsig, roundMag, ulpShift_mul hlt hsig, Nat.one_mul, Nat.mul_comm (2 ^ e) r,
    roundHalfEven_mul r (Nat.two_pow_pos e)]
  omega

/-- A finite rounding is its exponent field and its significand. -/
theorem roundMag_eq_of_lt {a b : Nat} (h : roundMag a b < 0x7F800000) :
    roundMag a b = 2 ^ 23 * ulpShift a b + roundedSignificand a b := by
  rw [roundMag_eq_min] at *
  omega

/-- The last binade rounds to infinity from the middle of its last unit on. -/
theorem two_pow_le_roundedSignificand_iff {a b : Nat} (hb : 0 < b) (hs : ulpShift a b = 253) :
    2 ^ 24 ≤ roundedSignificand a b ↔ (2 ^ 25 - 1) * 2 ^ 252 * b ≤ a := by
  unfold roundedSignificand
  rw [hs, le_roundHalfEven_iff_of_even a (by positivity) (by norm_num)]
  omega

/-- A quotient below the last binade lies below the overflow threshold, and one above it does not. -/
theorem overflow_le_iff_of_ne {a b : Nat} (hb : 0 < b) (hs : ulpShift a b ≠ 253) :
    (2 ^ 25 - 1) * 2 ^ 252 * b ≤ a ↔ 253 < ulpShift a b := by
  have hpos : 0 < 2 ^ ulpShift a b := Nat.two_pow_pos _
  rw [← Nat.le_div_iff_mul_le hb]
  constructor
  · intro h
    by_contra hle
    have hlt := div_ulp_lt a b
    rw [← Nat.div_div_eq_div_mul, Nat.div_lt_iff_lt_mul hpos] at hlt
    have : 2 ^ ulpShift a b ≤ 2 ^ 252 := Nat.pow_le_pow_right (by omega) (by omega)
    omega
  · intro h
    have hge : 2 ^ 23 ≤ a / (b * 2 ^ ulpShift a b) := le_div_ulp (by omega)
    rw [← Nat.div_div_eq_div_mul, Nat.le_div_iff_mul_le hpos] at hge
    have : 2 ^ 254 ≤ 2 ^ ulpShift a b := Nat.pow_le_pow_right (by omega) h
    omega

/-- A rounding is infinity exactly from the middle of the largest finite magnitude and 2^128 on. -/
theorem roundMag_eq_inf_iff (a : Nat) {b : Nat} (hb : 0 < b) :
    roundMag a b = 0x7F800000 ↔ (2 ^ 25 - 1) * 2 ^ 252 * b ≤ a := by
  obtain ⟨hle, hnorm⟩ := isSignificand_rounded a b
  rw [roundMag_eq_min]
  by_cases hs : ulpShift a b = 253
  · rw [← two_pow_le_roundedSignificand_iff hb hs]
    omega
  · rw [overflow_le_iff_of_ne hb hs]
    omega

/-- Every finite magnitude is a multiple of the unit of a rounding, or lies below that unit's normalised significands. -/
theorem patternMag_multiple_or_lt (m e : Nat) :
    (∃ j, patternMag m = 2 ^ e * j) ∨ (e ≠ 0 ∧ patternMag m < 2 ^ e * 2 ^ 23) := by
  obtain ⟨f, r, hlt, hsig, rfl⟩ := exists_significand m
  rw [patternMag_add hsig]
  rcases Nat.lt_or_ge f e with hf | hf
  · refine .inr ⟨by omega, ?_⟩
    calc 2 ^ f * r < 2 ^ f * 2 ^ 24 := Nat.mul_lt_mul_of_pos_left hlt (Nat.two_pow_pos f)
      _ = 2 ^ (f + 1) * 2 ^ 23 := by rw [← Nat.pow_add, ← Nat.pow_add]
      _ ≤ 2 ^ e * 2 ^ 23 := Nat.mul_le_mul_right _ (Nat.pow_le_pow_right (by omega) hf)
  · left
    refine ⟨2 ^ (f - e) * r, ?_⟩
    rw [← Nat.mul_assoc, ← Nat.pow_add, Nat.add_sub_cancel' hf]

/-- The magnitude of a finite rounding is its significand's multiple of its unit. -/
theorem patternMag_roundMag {a b : Nat} (h : roundMag a b < 0x7F800000) :
    patternMag (roundMag a b) = 2 ^ ulpShift a b * roundedSignificand a b := by
  rw [roundMag_eq_of_lt h, patternMag_add (isSignificand_rounded a b)]

/-- What lies below the normalised significands of a quotient's unit is farther from the quotient than the rounded one. -/
theorem roundedSignificand_nearer_of_lt {a b v : Nat} (hb : 0 < b) (he : ulpShift a b ≠ 0)
    (hv : v < 2 ^ ulpShift a b * 2 ^ 23) :
    (((b * 2 ^ ulpShift a b : Nat) * roundedSignificand a b : Int) - a).natAbs < ((v * b : Int) - a).natAbs := by
  have hpos : 0 < b * 2 ^ ulpShift a b := by positivity
  have hreach : 2 ^ 23 * (b * 2 ^ ulpShift a b) ≤ a := (Nat.le_div_iff_mul_le hpos).mp (le_div_ulp he)
  have hlt : v * b < 2 ^ 23 * (b * 2 ^ ulpShift a b) := by
    calc v * b < 2 ^ ulpShift a b * 2 ^ 23 * b := Nat.mul_lt_mul_of_pos_right hv hb
      _ = 2 ^ 23 * (b * 2 ^ ulpShift a b) := by ring
  obtain ⟨hnear, -⟩ := roundHalfEven_nearest a (2 ^ 23) hpos
  unfold roundedSignificand
  zify at hreach hlt
  push_cast at *
  omega

/-- A finite rounding is as near to the quotient as any pattern, and where another is as near it is even. -/
theorem roundMag_nearest {a b : Nat} (m : Nat) (hb : 0 < b) (hfin : roundMag a b < 0x7F800000) :
    ((patternMag (roundMag a b) * b : Int) - a).natAbs ≤ ((patternMag m * b : Int) - a).natAbs ∧
      (m ≠ roundMag a b →
        ((patternMag (roundMag a b) * b : Int) - a).natAbs = ((patternMag m * b : Int) - a).natAbs →
          roundMag a b % 2 = 0) := by
  have hunit (j : Nat) : ((2 ^ ulpShift a b * j : Nat) * b : Int) = (b * 2 ^ ulpShift a b : Nat) * j := by
    push_cast
    ring
  have hround := patternMag_roundMag hfin
  obtain ⟨j, hj⟩ | ⟨he, hlt⟩ := patternMag_multiple_or_lt m (ulpShift a b)
  · obtain ⟨hnear, htie⟩ := roundHalfEven_nearest a j (d := b * 2 ^ ulpShift a b) (by positivity)
    have hne : m ≠ roundMag a b → j ≠ roundedSignificand a b := by
      rintro hm rfl
      exact hm (patternMag_strictMono.injective (hj.trans hround.symm))
    have heven : roundedSignificand a b % 2 = 0 → roundMag a b % 2 = 0 := by
      have := roundMag_eq_of_lt hfin
      omega
    rw [hround, hj, hunit, hunit]
    exact ⟨hnear, fun hm heq => heven (htie (hne hm) heq)⟩
  · have hnear := roundedSignificand_nearer_of_lt hb he hlt
    rw [hround, hunit]
    exact ⟨hnear.le, fun _ heq => absurd heq hnear.ne⟩

/-- Settles O35: the overflow threshold is `roundMag_eq_inf_iff`, and nearness with ties to even is `roundMag_nearest`, read
through the layout of the finite patterns. -/
theorem roundingIsNearestEven : Obligations.RoundingIsNearestEven := by
  intro a b hb
  refine ⟨roundMag_eq_inf_iff a hb, fun hfin m hm => ?_⟩
  rw [magOf_eq_patternMag hfin, magOf_eq_patternMag hm]
  exact roundMag_nearest m hb hfin

/-! ### The operations on finite values -/

/-- Reading a sign and a pattern up to infinity's, and writing it again, gives them back. -/
theorem toBits_ofBits_signedWord (neg : Bool) {k : Nat} (h : k ≤ 0x7F800000) :
    (F32.ofBits (signedWord neg k)).toBits = signedWord neg k := by
  rcases Nat.lt_or_eq_of_le h with hlt | rfl
  · rw [ofBits_signedWord neg hlt, F32.toBits, roundMag_patternMag hlt]
    rfl
  · cases neg <;> decide +kernel

/-- A rounded result has the pattern of the one rounding: writing it does not round again. -/
theorem round_toBits (neg : Bool) (a b : Nat) : (F32.round neg a b).toBits = signedWord neg (roundMag a b) :=
  toBits_ofBits_signedWord neg (roundMag_le a b)

/-- The pattern of a sum: a zero sum is negative only if both operands are. -/
theorem ofSum_toBits (bothNeg : Bool) (z : Int) :
    (F32.ofSum bothNeg z).toBits =
      signedWord (decide (z < 0) || (decide (z = 0) && bothNeg)) (roundMag z.natAbs 1) := by
  unfold F32.ofSum
  split_ifs with hz
  · subst hz
    simp [F32.toBits, F32.pack, signedWord]
  · simp [round_toBits, hz]

theorem add_finite_toBits (s t : Bool) (m n : Nat) :
    let x : Int := if s then -(m : Int) else m
    let y : Int := if t then -(n : Int) else n
    (F32.add (.finite s m) (.finite t n)).toBits =
      signedWord (decide (x + y < 0) || (decide (x + y = 0) && s && t)) (roundMag (x + y).natAbs 1) := by
  simp only [F32.add, ofSum_toBits, Bool.and_assoc]

/-- A difference is the sum with the second sign changed. -/
theorem sub_finite_toBits (s t : Bool) (m n : Nat) :
    let x : Int := if s then -(m : Int) else m
    let y : Int := if t then -(n : Int) else n
    (F32.sub (.finite s m) (.finite t n)).toBits =
      signedWord (decide (x - y < 0) || (decide (x - y = 0) && s && !t)) (roundMag (x - y).natAbs 1) := by
  have hneg : (if !t then -(n : Int) else n) = -(if t then -(n : Int) else n) := by cases t <;> simp
  have h := add_finite_toBits s (!t) m n
  rwa [hneg] at h

theorem div_finite_toBits (s t : Bool) (m : Nat) {n : Nat} (hn : n ≠ 0) :
    (F32.div (.finite s m) (.finite t n)).toBits = signedWord (s != t) (roundMag (2 ^ 149 * m) n) := by
  rw [F32.div, if_neg hn, round_toBits]

/-- Settles O36: each operation is one rounding of the exact result (`round_toBits`), and a zero sum is `ofSum`'s. -/
theorem arithmeticRoundsOnce : Obligations.ArithmeticRoundsOnce :=
  ⟨fun neg _ hk => ofBits_signedWord neg hk, fun n => round_toBits false (2 ^ 149 * n) 1, fun s t m n =>
    ⟨add_finite_toBits s t m n, sub_finite_toBits s t m n, round_toBits (s != t) (m * n) (2 ^ 149),
      div_finite_toBits s t m⟩⟩

/-! ### The conversions to integers -/

/-- `ceil` of a finite value is the ceiling of its real value. -/
theorem ceil_eq_intCeil {x : F32} {z : Int} (h : F32.scaled x = some z) : F32.ceil x = ⌈(z : ℚ) / 2 ^ 149⌉ := by
  have hdiv : (z : ℚ) / 2 ^ 149 = (z : ℚ) / (2 ^ 149 : Nat) := by norm_num
  rw [F32.ceil, h, hdiv, Rat.ceil_intCast_div_natCast]
  rfl

/-- The nearest integer to a rational, halves away from zero (00_scope.md R13). -/
def roundHalfAway (q : ℚ) : Int := if 0 ≤ q then ⌊q + 1 / 2⌋ else -⌊-q + 1 / 2⌋

theorem floor_add_half (z : Int) : ⌊(z : ℚ) / 2 ^ 149 + 1 / 2⌋ = (2 * z + 2 ^ 149) / 2 ^ 150 := by
  have hdiv : (z : ℚ) / 2 ^ 149 + 1 / 2 = ((2 * z + 2 ^ 149 : Int) : ℚ) / (2 ^ 150 : Nat) := by
    push_cast
    ring
  rw [hdiv, Rat.floor_intCast_div_natCast]
  rfl

/-- `round` of a finite value is that of its real value. -/
theorem roundAway_eq_roundHalfAway {x : F32} {z : Int} (h : F32.scaled x = some z) :
    F32.roundAway x = roundHalfAway ((z : ℚ) / 2 ^ 149) := by
  have hsign : (0 : ℚ) ≤ (z : ℚ) / 2 ^ 149 ↔ 0 ≤ z := by
    rw [le_div_iff₀ (by positivity), zero_mul, Int.cast_nonneg_iff]
  have hneg := floor_add_half (-z)
  rw [Int.cast_neg, neg_div] at hneg
  simp only [F32.roundAway, h, roundHalfAway, hsign, floor_add_half, hneg]

/-- Halves of a value that is not negative are rounded up. -/
theorem floor_add_half_near {q : ℚ} (hq : 0 ≤ q) :
    |(⌊q + 1 / 2⌋ : ℚ) - q| ≤ 1 / 2 ∧ (|(⌊q + 1 / 2⌋ : ℚ) - q| = 1 / 2 → |q| < |(⌊q + 1 / 2⌋ : ℚ)|) := by
  have hle := Int.floor_le (q + 1 / 2)
  have hlt := Int.lt_floor_add_one (q + 1 / 2)
  refine ⟨abs_le.mpr ⟨by linarith, by linarith⟩, fun h => ?_⟩
  have hup : (⌊q + 1 / 2⌋ : ℚ) = q + 1 / 2 := by
    rcases eq_or_eq_neg_of_abs_eq h with h | h <;> linarith
  rw [hup, abs_of_nonneg hq, abs_of_nonneg (by linarith)]
  linarith

/-- Rounding is to a nearest integer, and of two the one farther from zero. -/
theorem roundHalfAway_near (q : ℚ) :
    |(roundHalfAway q : ℚ) - q| ≤ 1 / 2 ∧ (|(roundHalfAway q : ℚ) - q| = 1 / 2 → |q| < |(roundHalfAway q : ℚ)|) := by
  unfold roundHalfAway
  split_ifs with hq
  · exact floor_add_half_near hq
  · have h := floor_add_half_near (q := -q) (by linarith)
    rw [abs_neg] at h
    rw [Int.cast_neg, abs_neg, show -(⌊-q + 1 / 2⌋ : ℚ) - q = -((⌊-q + 1 / 2⌋ : ℚ) - -q) by ring, abs_neg]
    exact h

/-- Settles O37: `ceil` and `round` are those of the exact real value. -/
theorem ceilAndRoundOfReals : Obligations.CeilAndRoundOfReals := by
  intro neg m q
  have hs : F32.scaled (.finite neg m) = some (if neg then -(m : Int) else m) := rfl
  have hq : q = ((if neg then -(m : Int) else m : Int) : ℚ) / 2 ^ 149 := by cases neg <;> simp [q]
  rw [ceil_eq_intCeil hs, roundAway_eq_roundHalfAway hs, ← hq]
  exact ⟨⟨Int.le_ceil q, fun z hz => Int.ceil_le.mpr hz⟩, roundHalfAway_near q⟩

end Sys2Proof.Machine
end

section
/-! PROOFS. What a command and a step can do, said once for all commands and all host lines, and what follows from it: what
no step changes, what each unit's commands leave alone, and that no step reads the scratch (10_state.md R31, R38, R41). -/

namespace Sys2Proof.Machine

/-! ### The effects of a command -/

/-- What a command can do from a state: one constructor for each way it can end, with what its checks established. -/
inductive CommandEffect (s : State) : Instr → State → Prop
  /-- NOP, or any command but SRESET while FAULTED (60_exceptions.md R128) -/
  | unchanged {i : Instr} : CommandEffect s i s
  /-- a check of the command failed (60_exceptions.md R126) -/
  | faulted {i : Instr} {c : Cause} (hnone : c ≠ .none) (hbusy : c ≠ .cmdWhileBusy) : CommandEffect s i (takeFault c s)
  | q15 {i : Instr} {v : Word} (hi : i ∈ q15Commands) : CommandEffect s i (s.setRes v)
  | detConfigured {v : Word} (hvalid : detConfigValid (clampedLevels s) (clampedLength s.params (s32 s.arg1)) = true) :
      CommandEffect s .detConfig
        ((s.configureDetector (clampedLevels s) (clampedLength s.params (s32 s.arg1))).setRes v)
  | estimated {i : Instr} {v : Word} (hi : i ∈ estimateCommands) (hcheck : estimateCheck s = none) :
      CommandEffect s i ((estimate s.arg0.toNat s).2.setRes v)
  /-- DET_EST_OCT without an octave jump (42_smoothing.md R108) -/
  | estimatedHeld {v : Word} (hcheck : estimateCheck s = none) :
      CommandEffect s .detEstOct (((estimate s.arg0.toNat s).2.setHeld (estimate s.arg0.toNat s).1).setRes v)
  | shfConfigured {v : Word} :
      CommandEffect s .shfConfig (((s.configureShifter (clampedLength s.params (s32 s.arg0))).setMem
        (clearShifterBuffers s.params s.mem)).setRes v)
  | corrected {v : Word} {p : Shift} (hcheck : shiftChecks s = .ok p) :
      CommandEffect s .shfCorrect ((s.setMem (correctFrame s.shfN.toNat p s.mem)).setRes v)
  | reset : CommandEffect s .sreset (resetEvent s)

theorem commandEffect_of_q15Command {op : Int → Int → Int} {i : Instr} {s t : State} (hi : i ∈ q15Commands)
    (h : q15Command op s = .next t) : CommandEffect s i t := by
  rcases q15Command_next h with rfl | rfl
  · exact .unchanged
  · exact .q15 hi

/-- The five estimate commands differ in their policies, which write RES and, in DET_EST_OCT's, HELD_FREQ
(42_smoothing.md R106 to R109). -/
theorem exec_eq_estimateCommand {i : Instr} (hi : i ∈ estimateCommands) :
    ∃ policy, (∀ s, exec i s = estimateCommand policy s) ∧
      ∀ raw t, ∃ v, policy raw t = t.setRes v ∨ (i = .detEstOct ∧ policy raw t = (t.setHeld raw).setRes v) := by
  simp only [estimateCommands, List.mem_cons, List.not_mem_nil, or_false] at hi
  rcases hi with rfl | rfl | rfl | rfl | rfl
  · exact ⟨fun raw t => t.setRes raw, fun _ => rfl, fun _ _ => ⟨_, .inl rfl⟩⟩
  · exact ⟨fun _ t => t.setRes (median5 t.ring), fun _ => rfl, fun _ _ => ⟨_, .inl rfl⟩⟩
  · exact ⟨fun _ t => t.setRes t.lastFreq, fun _ => rfl, fun _ _ => ⟨_, .inl rfl⟩⟩
  · refine ⟨octavePolicy, fun _ => rfl, fun raw t => ?_⟩
    unfold octavePolicy
    split_ifs
    · exact ⟨_, .inl rfl⟩
    · exact ⟨_, .inr ⟨rfl, rfl⟩⟩
  · exact ⟨fun raw t => t.setRes (robustResult raw t), fun _ => rfl, fun _ _ => ⟨_, .inl rfl⟩⟩

theorem commandEffect_of_estimateCommand {i : Instr} {s t : State} (hi : i ∈ estimateCommands)
    (h : exec i s = .next t) : CommandEffect s i t := by
  obtain ⟨policy, hexec, hpolicy⟩ := exec_eq_estimateCommand hi
  rw [hexec] at h
  rcases estimateCommand_next h with ⟨-, rfl⟩ | ⟨-, c, hc, rfl⟩ | ⟨-, hc, rfl⟩
  · exact .unchanged
  · rcases estimateCheck_eq_some hc with ⟨-, rfl⟩ | ⟨-, -, rfl⟩ <;> exact .faulted (by decide) (by decide)
  · obtain ⟨v, hv | ⟨rfl, hv⟩⟩ := hpolicy (estimate s.arg0.toNat s).1 (estimate s.arg0.toNat s).2
    · rw [hv]
      exact .estimated hi hc
    · rw [hv]
      exact .estimatedHeld hc

/-- Whatever a command answers is one of the listed effects. -/
theorem commandEffect_of_exec {i : Instr} {s t : State} (h : exec i s = .next t) : CommandEffect s i t := by
  cases i with
  | nop =>
    rcases unlessFaulted_next.mp h with ⟨-, rfl⟩ | ⟨-, h⟩
    · exact .unchanged
    · cases h
      exact .unchanged
  | q15mul | q15addw | q15adds => exact commandEffect_of_q15Command (by decide) h
  | detConfig =>
    rcases execDetConfig_next h with ⟨-, rfl⟩ | ⟨-, hvalid, rfl⟩ | ⟨-, -, rfl⟩
    · exact .unchanged
    · exact .detConfigured hvalid
    · exact .faulted (by decide) (by decide)
  | detEst | detEstMed | detEstLast | detEstOct | detEstRob => exact commandEffect_of_estimateCommand (by decide) h
  | shfConfig =>
    rcases execShfConfig_next h with ⟨-, rfl⟩ | ⟨-, rfl⟩
    · exact .unchanged
    · exact .shfConfigured
  | shfCorrect =>
    rcases execShfCorrect_next h with ⟨-, rfl⟩ | ⟨-, c, hc, rfl⟩ | ⟨-, p, hp, rfl⟩
    · exact .unchanged
    · rcases shiftChecks_error hc with rfl | rfl | rfl | rfl | rfl <;> exact .faulted (by decide) (by decide)
    · exact .corrected hp
  | sreset =>
    cases h
    exact .reset

/-! ### What commands leave alone -/

/-- The flags of STATUS a core estimate never writes: all but CONF (41_pitch_detector.md R104). -/
theorem estimate_status (fs : Nat) (s : State) :
    ∃ conf, (estimate fs s).2.status = { s.status with conf } := by
  cases h : scanOf fs s with
  | confirmed pm l => exact ⟨true, by rw [estimate_confirmed h]⟩
  | pitchless => exact ⟨false, by rw [estimate_pitchless h]⟩

/-- Settles O16: of the listed effects only the reset event writes an argument register. -/
theorem commandsKeepArguments : Obligations.CommandsKeepArguments := by
  intro i s t h hi
  obtain ⟨hargs, -⟩ := estimate_frame s.arg0.toNat s
  cases commandEffect_of_exec h with
  | estimated | estimatedHeld => exact hargs
  | reset => exact absurd rfl hi
  | _ => exact ⟨rfl, rfl, rfl⟩

theorem exec_params {i : Instr} {s t : State} (h : exec i s = .next t) : t.params = s.params := by
  obtain ⟨-, -, -, -, -, -, hparams, -⟩ := estimate_frame s.arg0.toNat s
  cases commandEffect_of_exec h with
  | estimated | estimatedHeld => exact hparams
  | _ => rfl

/-- The buffers belong to the host and the shifter (10_state.md R34). -/
theorem exec_mem {i : Instr} {s t : State} (h : exec i s = .next t) (hshift : i ∉ shifterCommands) (hi : i ≠ .sreset) :
    t.mem = s.mem := by
  obtain ⟨-, -, -, -, -, -, -, hmem, -⟩ := estimate_frame s.arg0.toNat s
  cases commandEffect_of_exec h with
  | estimated | estimatedHeld => exact hmem
  | shfConfigured | corrected => exact absurd (by decide) hshift
  | reset => exact absurd rfl hi
  | _ => rfl

theorem exec_host {i : Instr} {s t : State} (h : exec i s = .next t) : t.host = s.host := by
  obtain ⟨-, -, -, -, -, -, -, -, hhost⟩ := estimate_frame s.arg0.toNat s
  cases commandEffect_of_exec h with
  | estimated | estimatedHeld => exact hhost
  | _ => rfl

/-- Settles O18: memory is `exec_mem`'s, and no command at all writes the parameters or the host's side. -/
theorem onlyShifterCommandsWriteBuffers : Obligations.OnlyShifterCommandsWriteBuffers := by
  intro i s t h hshift hi
  exact ⟨fun a => by rw [exec_mem h hshift hi], exec_params h, exec_host h⟩

theorem exec_keeps_detector {i : Instr} {s t : State} (h : exec i s = .next t) (hdet : i ∉ detectorCommands)
    (hi : i ≠ .sreset) :
    t.detLevels = s.detLevels ∧ t.detN = s.detN ∧ t.status.detCfg = s.status.detCfg ∧
      t.status.conf = s.status.conf ∧ t.lastFreq = s.lastFreq ∧ t.lastMode = s.lastMode ∧
      t.heldFreq = s.heldFreq ∧ t.ring = s.ring ∧ t.ringPtr = s.ringPtr := by
  cases commandEffect_of_exec h with
  | estimated hest => exact absurd (List.mem_cons_of_mem _ hest) hdet
  | detConfigured | estimatedHeld => exact absurd (by decide) hdet
  | reset => exact absurd rfl hi
  | _ => simp

theorem exec_keeps_shifter_registers {i : Instr} {s t : State} (h : exec i s = .next t) (hshift : i ∉ shifterCommands)
    (hi : i ≠ .sreset) : t.shfN = s.shfN ∧ t.status.shfCfg = s.status.shfCfg := by
  obtain ⟨-, -, -, -, hshfN, -⟩ := estimate_frame s.arg0.toNat s
  obtain ⟨conf, hstatus⟩ := estimate_status s.arg0.toNat s
  cases commandEffect_of_exec h with
  | estimated | estimatedHeld => exact ⟨hshfN, by simp [hstatus]⟩
  | shfConfigured | corrected => exact absurd (by decide) hshift
  | reset => exact absurd rfl hi
  | _ => exact ⟨rfl, rfl⟩

theorem exec_q15 {i : Instr} {s t : State} (h : exec i s = .next t) (hq : i ∈ q15Commands) :
    t = s.setRes t.res := by
  have of_q15Command {op} (h : q15Command op s = .next t) : t = s.setRes t.res := by
    rcases q15Command_next h with rfl | rfl <;> rfl
  simp only [q15Commands, List.mem_cons, List.not_mem_nil, or_false] at hq
  rcases hq with rfl | rfl | rfl <;> exact of_q15Command h

/-- Settles O17: each unit's state is left alone by the others' commands. -/
theorem unitsKeepApart : Obligations.UnitsKeepApart := by
  intro i s t h hi
  refine ⟨fun hdet => exec_keeps_detector h hdet hi, fun hshift => ?_, exec_q15 h⟩
  obtain ⟨hshfN, hcfg⟩ := exec_keeps_shifter_registers h hshift hi
  exact ⟨hshfN, hcfg, fun b j _ => by rw [exec_mem h hshift hi]⟩

/-! ### The effects of a step -/

/-- What a step can do from a state: one constructor for each way the host's next line can end. -/
inductive StepEffect (s : State) : State → Prop
  /-- the host's program has ended (60_exceptions.md R136) -/
  | idle : StepEffect s s
  /-- a `wait`, a CMD write that is ignored, or a write while BUSY -/
  | advanced : StepEffect s s.advance
  /-- a read, of the value `v` -/
  | read {v : Word} {k : Nat} : StepEffect s { s.advance.logRead v with freeCount := k }
  | dataWritten {addr n : Nat} {v : Word} : StepEffect s (memWriteData addr n v s.advance)
  | command {i : Instr} {t : State} (h : exec i s.advance = .next t) : StepEffect s t
  /-- a CMD write that issues no command: of an illegal word, or while BUSY -/
  | faulted {c : Cause} (hnone : c ≠ .none) (hbusy : c = .cmdWhileBusy → s.status.busy = true) :
      StepEffect s (takeFault c s.advance)
  /-- the platform's reset -/
  | reset : StepEffect s (resetEvent s.advance)

theorem hostRead_effect (addr n : Nat) (s : State) : StepEffect s (hostRead addr n s.advance) := by
  unfold hostRead
  split_ifs
  · exact .read
  · exact .read (k := s.freeCount)

theorem issueCommand_effect {w : Word} {s t : State} (h : issueCommand w s.advance = .next t) : StepEffect s t := by
  have of_unlessFaulted {c : Cause} (hnone : c ≠ .none) (hbusy : c = .cmdWhileBusy → s.status.busy = true)
      (h : unlessFaulted s.advance (.next (takeFault c s.advance)) = .next t) : StepEffect s t := by
    rcases unlessFaulted_next.mp h with ⟨-, rfl⟩ | ⟨-, h⟩
    · exact .advanced
    · cases h
      exact .faulted hnone hbusy
  by_cases hbusy : s.status.busy = true
  · rw [issueCommand, if_pos (by exact hbusy)] at h
    exact of_unlessFaulted (by decide) (fun _ => hbusy) h
  · rw [issueCommand_of_idle (by simpa using hbusy)] at h
    cases hd : decode w with
    | some i =>
      rw [hd] at h
      exact .command h
    | none =>
      rw [hd] at h
      exact of_unlessFaulted (by decide) (fun hc => absurd hc (by decide)) h

/-- Whatever a step answers is one of the listed effects. -/
theorem stepEffect_of_step {s t : State} (h : step s = .next t) : StepEffect s t := by
  cases he : s.host.program[s.host.position]? with
  | none =>
    rw [step_of_end he] at h
    cases h
    exact .idle
  | some e =>
    rw [step_of_event he] at h
    cases e with
    | read addr n =>
      cases h
      exact hostRead_effect addr n s
    | write addr n v =>
      simp only [performEvent, hostWrite] at h
      split_ifs at h
      · exact issueCommand_effect h
      · cases h
        exact .advanced
      · cases h
        exact .dataWritten
    | wait =>
      cases h
      exact .advanced
    | hardReset =>
      cases h
      exact .reset

/-- Settles O3: a write to CMD issues its word, and while not busy that runs the decoded command. -/
theorem stepRunsDecodedCommand : Obligations.StepRunsDecodedCommand := by
  intro s w i hevent hbusy hdecode
  rw [step_of_event hevent]
  simp only [performEvent, hostWrite, and_self, if_true]
  rw [issueCommand_of_idle (by exact hbusy), hdecode]
  rfl

/-! ### The parameters -/

theorem memWriteData_params (addr n : Nat) (v : Word) (s : State) : (memWriteData addr n v s).params = s.params := by
  rcases memWriteData_cases addr n v s with h | h | h | h | ⟨i, -, -, h⟩ <;> simp [h]

theorem step_params {s t : State} (h : step s = .next t) : t.params = s.params := by
  cases stepEffect_of_step h with
  | command h => simpa using exec_params h
  | dataWritten => exact memWriteData_params _ _ _ _
  | _ => rfl

/-- P_OPTIONS as a number: CLIMB_SEED in bit 0 and TIE_REF in bit 1 (10_state.md section 2). -/
theorem optionsWord_toNat (p : Params) :
    (optionsWord p).toNat =
      (if p.climbSeed = .levelWindow then 1 else 0) + (if p.tieRef = .lastConfirmedMode then 2 else 0) := by
  unfold optionsWord
  cases p.climbSeed with
  | inputFrame | levelWindow => cases p.tieRef <;> decide

/-- Settles O13: the parameters are `step_params`'s, and each register reads its own. -/
theorem parametersAreConstant : Obligations.ParametersAreConstant := by
  intro s t h
  have hparams := step_params h
  simp only [readReg, hparams, optionsWord_toNat, and_self]

/-! ### The scratch is never read -/

/-- The second answer is the first but perhaps for the scratch (10_state.md R38). -/
def SameButScratch (r r' : Result) : Prop := ∀ t, r = .next t → ∃ sc, r' = .next { t with scratch := sc }

theorem sameButScratch_next (s : State) (sc : Scratch) : SameButScratch (.next s) (.next { s with scratch := sc }) := by
  intro t h
  cases h
  exact ⟨sc, rfl⟩

theorem sameButScratch_self (r : Result) : SameButScratch r r := fun t h => ⟨t.scratch, h⟩

theorem sameButScratch_unlessFaulted {s : State} {sc : Scratch} {run run' : Result} (h : SameButScratch run run') :
    SameButScratch (unlessFaulted s run) (unlessFaulted { s with scratch := sc } run') := by
  cases hf : s.status.fault with
  | true =>
    rw [unlessFaulted_of_faulted hf, unlessFaulted_of_faulted (by exact hf)]
    exact sameButScratch_next s sc
  | false => rwa [unlessFaulted_of_running hf, unlessFaulted_of_running (by exact hf)]

/-- A core estimate neither reads the scratch nor leaves any of it. -/
theorem estimate_scratch (fs : Nat) (s : State) (sc : Scratch) : estimate fs { s with scratch := sc } = estimate fs s := by
  cases h : scanOf fs s with
  | confirmed pm l =>
    rw [estimate_confirmed h, estimate_confirmed (s := { s with scratch := sc }) h]
  | pitchless =>
    rw [estimate_pitchless h, estimate_pitchless (s := { s with scratch := sc }) h]

theorem sameButScratch_estimateCommand {i : Instr} (hi : i ∈ estimateCommands) (s : State) (sc : Scratch) :
    SameButScratch (exec i s) (exec i { s with scratch := sc }) := by
  obtain ⟨policy, hexec, -⟩ := exec_eq_estimateCommand hi
  rw [hexec, hexec]
  refine sameButScratch_unlessFaulted ?_
  have hcheck : estimateCheck { s with scratch := sc } = estimateCheck s := rfl
  rw [hcheck]
  cases estimateCheck s with
  | some c => exact sameButScratch_next (takeFault c s) sc
  | none =>
    simp only [estimate_scratch]
    exact sameButScratch_self _

theorem sameButScratch_exec (i : Instr) (s : State) (sc : Scratch) :
    SameButScratch (exec i s) (exec i { s with scratch := sc }) := by
  cases i with
  | nop => exact sameButScratch_unlessFaulted (sameButScratch_next s sc)
  | q15mul | q15addw | q15adds => exact sameButScratch_unlessFaulted (sameButScratch_next (s.setRes _) sc)
  | detConfig =>
    refine sameButScratch_unlessFaulted ?_
    show SameButScratch (if _ then _ else _) (if detConfigValid (clampedLevels s) _ then _ else _)
    split_ifs
    · exact sameButScratch_next ((s.configureDetector _ _).setRes _) sc
    · exact sameButScratch_next (takeFault _ s) sc
  | detEst | detEstMed | detEstLast | detEstOct | detEstRob => exact sameButScratch_estimateCommand (by decide) s sc
  | shfConfig => exact sameButScratch_unlessFaulted (sameButScratch_next (((s.configureShifter _).setMem _).setRes _) sc)
  | shfCorrect =>
    refine sameButScratch_unlessFaulted ?_
    have hcheck : shiftChecks { s with scratch := sc } = shiftChecks s := rfl
    rw [hcheck]
    cases shiftChecks s with
    | error c => exact sameButScratch_next (takeFault c s) sc
    | ok p => exact sameButScratch_next ((s.setMem _).setRes _) sc
  | sreset => exact sameButScratch_self (.next (resetEvent s))

theorem sameButScratch_issueCommand (w : Word) (s : State) (sc : Scratch) :
    SameButScratch (issueCommand w s) (issueCommand w { s with scratch := sc }) := by
  unfold issueCommand
  split_ifs
  · exact sameButScratch_unlessFaulted (sameButScratch_next (takeFault _ s) sc)
  · cases decode w with
    | some i => exact sameButScratch_exec i s sc
    | none => exact sameButScratch_unlessFaulted (sameButScratch_next (takeFault _ s) sc)

theorem memWriteData_scratch (addr n : Nat) (v : Word) (s : State) (sc : Scratch) :
    memWriteData addr n v { s with scratch := sc } = { memWriteData addr n v s with scratch := sc } := by
  unfold memWriteData
  split_ifs
  · split <;> rfl
  · dsimp only
    split <;> rfl
  · rfl

theorem memRead_scratch (addr n : Nat) (s : State) (sc : Scratch) :
    memRead { s with scratch := sc } addr n = memRead s addr n := by
  have hreg (r : Reg) : readReg { s with scratch := sc } r = readReg s r := by cases r <;> rfl
  unfold memRead
  simp only [hreg]

theorem hostRead_scratch (addr n : Nat) (s : State) (sc : Scratch) :
    hostRead addr n { s with scratch := sc } = { hostRead addr n s with scratch := sc } := by
  unfold hostRead
  rw [memRead_scratch]
  split_ifs
  · rfl
  · rfl

theorem sameButScratch_performEvent (e : HostEvent) (s : State) (sc : Scratch) :
    SameButScratch (performEvent e s) (performEvent e { s with scratch := sc }) := by
  cases e with
  | read addr n =>
    simp only [performEvent, hostRead_scratch]
    exact sameButScratch_next _ sc
  | write addr n v =>
    simp only [performEvent, hostWrite, memWriteData_scratch]
    split_ifs
    · exact sameButScratch_issueCommand v s sc
    · exact sameButScratch_next s sc
    · exact sameButScratch_next _ sc
  | wait => exact sameButScratch_next s sc
  | hardReset => exact sameButScratch_self (.next (resetEvent s))

/-- Settles O14: both runs perform the same event, and `sameButScratch_performEvent` compares their answers. -/
theorem scratchIsNeverRead : Obligations.ScratchIsNeverRead := by
  intro s t sc
  show step s = .next t → _
  revert t
  cases he : s.host.program[s.host.position]? with
  | none =>
    rw [step_of_end he, step_of_end (s := { s with scratch := sc }) he]
    exact sameButScratch_next s sc
  | some e =>
    rw [step_of_event he, step_of_event (s := { s with scratch := sc }) he]
    exact sameButScratch_performEvent e s.advance sc

end Sys2Proof.Machine
end

section
/-! PROOFS. The registers and buffers as the host reads them: the STATUS word's layout, the values after reset, and what a
read of each address gives (10_state.md R24, R43; 20_memory.md R45 to R48). -/

namespace Sys2Proof.Machine

/-! ### The words of the flags and options -/

theorem toNat_append_eq_add {m n : Nat} (x : BitVec m) (y : BitVec n) :
    (x ++ y).toNat = 2 ^ n * x.toNat + y.toNat := by
  rw [BitVec.toNat_append, Nat.shiftLeft_eq, Nat.mul_comm, Nat.two_pow_add_eq_or_of_lt y.isLt]

/-- Each field of STATUS stands at the width of the fields below it. -/
theorem statusWord_toNat (t : Status) :
    (statusWord t).toNat =
      t.busy.toNat + 2 * t.fault.toNat + 4 * t.detCfg.toNat + 8 * t.shfCfg.toNat + 16 * t.conf.toNat +
        256 * (causeCode t.cause).toNat := by
  have hflag (b : Bool) : (flagBit b).toNat = b.toNat := BitVec.toNat_ofBool b
  have hzero (n : Nat) : (0 : BitVec n).toNat = 0 := BitVec.toNat_zero
  simp only [statusWord, toNat_append_eq_add, hflag, hzero]
  omega

/-- Settles O21: `statusWord_toNat` with each cause's code. -/
theorem statusWordLayout : Obligations.StatusWordLayout := by
  intro t
  rw [statusWord_toNat]
  cases t.cause <;> rfl

theorem optionsWord_eq (p : Params) :
    optionsWord p = BitVec.ofNat 32 ((if p.climbSeed = .levelWindow then 1 else 0) +
      if p.tieRef = .lastConfirmedMode then 2 else 0) := by
  rw [← optionsWord_toNat, BitVec.ofNat_toNat, BitVec.setWidth_eq]

/-! ### Right after reset -/

theorem readElem_nil (b : Buf) (i : Nat) : readElem [] b i = 0 := by
  simp only [readElem, Memory.byteAt]
  rfl

/-- Settles O9: every field is written by `State.resetWith`, and the empty memory reads 0 everywhere. -/
theorem resetStateValues : Obligations.ResetStateValues := by
  intro p
  have hstatus : statusWord Status.reset = 0 := by decide
  exact ⟨⟨rfl, rfl, rfl, rfl, hstatus⟩, ⟨rfl, rfl, rfl, rfl, rfl, rfl⟩, rfl, rfl, readElem_nil, rfl⟩

/-! ### Host reads -/

/-- The ranges of 00_scope.md R7 that the address map and the detector's bounds rest on. -/
theorem ranges_of_legal {p : Params} (h : p.legal = true) :
    p.maxLevels ≤ 15 ∧ 8 ≤ p.maxWindow ∧ p.maxWindow ≤ 2048 := by
  simp only [Params.legal, Bool.and_eq_true, decide_eq_true_eq] at h
  obtain ⟨⟨⟨⟨-, hlevels⟩, hwindow⟩, -⟩, -⟩ := h
  exact ⟨hlevels, hwindow⟩

/-- The buffers' regions do not overlap, so that every element is found at its address. -/
theorem elemAtAddr_elemAddr {p : Params} (hp : p.maxWindow ≤ 2048) {b : Buf} {i : Nat} (hi : i < b.length p) :
    elemAtAddr p (elemAddr b i) = some (b, i) := by
  have heven := elemAddr_even b i
  have haddr : elemAddr b i = bufBase b + 2 * i := rfl
  generalize elemAddr b i = a at heven haddr ⊢
  unfold elemAtAddr
  rw [if_neg (by omega)]
  cases b <;> simp only [bufBase, Buf.length] at haddr hi
  case frame => rw [if_pos (by omega), show (a - 0x1000) / 2 = i by omega]
  case hist => rw [if_neg (by omega), if_pos (by omega), show (a - 0x2000) / 2 = i by omega]
  case acc => rw [if_neg (by omega), if_neg (by omega), if_pos (by omega), show (a - 0x4000) / 2 = i by omega]
  case win =>
    rw [if_neg (by omega), if_neg (by omega), if_neg (by omega), if_pos (by omega),
      show (a - 0x6000) / 2 = i by omega]

theorem memRead_reg (s : State) (r : Reg) : memRead s (regOffset r) 4 = readReg s r := by
  have hr : regAtOffset (regOffset r) = some r := regAtOffset_eq_some.mpr rfl
  simp only [memRead, if_true, hr]

theorem memRead_elem {s : State} (hp : s.params.maxWindow ≤ 2048) {b : Buf} {i : Nat} (hi : i < b.length s.params) :
    memRead s (elemAddr b i) 2 = (readElem s.mem b i).setWidth 32 := by
  simp only [memRead, elemAtAddr_elemAddr hp hi]
  rfl

/-- The offsets of the register table are the multiples of 4 from 0x000 to 0x058 (10_state.md section 2). -/
theorem regOffset_mem_table (r : Reg) : regOffset r % 4 = 0 ∧ regOffset r ≤ 0x058 := by
  cases r <;> decide

/-- An access that is neither a register's nor an element's reads 0 (20_memory.md R48). -/
theorem memRead_unsupported {s : State} {addr n : Nat} (hreg : ¬(n = 4 ∧ addr % 4 = 0 ∧ addr ≤ 0x058))
    (helem : ∀ b i, i < Buf.length s.params b → ¬(n = 2 ∧ addr = elemAddr b i)) : memRead s addr n = 0 := by
  unfold memRead
  split_ifs with h4 h2
  · cases hr : regAtOffset addr with
    | none => rfl
    | some r =>
      have := regAtOffset_eq_some.mp hr
      exact absurd ⟨h4, this ▸ regOffset_mem_table r⟩ hreg
  · cases he : elemAtAddr s.params addr with
    | none => rfl
    | some e =>
      obtain ⟨b, i⟩ := e
      obtain ⟨haddr, hi⟩ := elemAtAddr_eq_some he
      exact absurd ⟨h2, haddr⟩ (helem b i hi)
  · rfl

theorem memRead_advance (s : State) (addr n : Nat) : memRead s.advance addr n = memRead s addr n := by
  have hreg (r : Reg) : readReg s.advance r = readReg s r := by cases r <;> rfl
  unfold memRead
  simp only [hreg, advance_params, advance_mem]

theorem step_read {s : State} {addr n : Nat} (hevent : NextEvent s (.read addr n)) (hbusy : s.status.busy = false) :
    step s = .next (s.advance.logRead (memRead s addr n)) := by
  rw [step_of_event hevent, performEvent, hostRead_eq addr n s.advance hbusy, memRead_advance]

/-- The registers in the order of their offsets. -/
def allRegs : List Reg :=
  [.cmd, .arg0, .arg1, .arg2, .res, .status, .detLevels, .detN, .shfN, .lastFreq, .lastMode, .heldFreq, .ringPtr,
    .ring0, .ring1, .ring2, .ring3, .ring4, .pMaxLevels, .pMaxWindow, .pMaxFreq, .pOctTol, .pOptions]

/-- Settles O20: the tables of the statement are the registers with their offsets and words and the buffers with their bases
and lengths, and a read of each is `memRead_reg`, `memRead_elem` or `memRead_unsupported`. -/
theorem hostReadsHaveNoSideEffect : Obligations.HostReadsHaveNoSideEffect := by
  refine ⟨fun s hevent => step_of_event hevent, fun s addr n hevent hbusy hlegal => ?_⟩
  obtain ⟨-, -, hwindow⟩ := ranges_of_legal hlegal
  refine ⟨memRead s addr n, step_read hevent hbusy, ?_, ?_, ?_⟩
  · rw [← optionsWord_eq]
    change ∀ r ∈ allRegs.map fun r => (regOffset r, readReg s r), _
    intro r hr hn haddr
    obtain ⟨q, -, rfl⟩ := List.mem_map.mp hr
    rw [hn, haddr, memRead_reg]
  · change ∀ r ∈ [Buf.frame, .hist, .acc, .win].map fun b => (b, bufBase b, b.length s.params), _
    intro r hr i hi hn haddr
    obtain ⟨b, -, rfl⟩ := List.mem_map.mp hr
    rw [hn, haddr]
    exact memRead_elem hwindow hi
  · intro hreg helem
    refine memRead_unsupported hreg fun b i hi => ?_
    change ∀ r ∈ [Buf.frame, .hist, .acc, .win].map fun b => (bufBase b, b.length s.params), _ at helem
    exact helem _ (List.mem_map.mpr ⟨b, by cases b <;> decide, rfl⟩) i hi

end Sys2Proof.Machine
end

section
/-! PROOFS. What a core estimate can put into the registers: a mode below the window's length and a frequency that is finite
and not negative (10_state.md R10, R42; 41_pitch_detector.md R94 to R101). -/

namespace Sys2Proof.Machine

/-! ### Frequencies -/

/-- A natural number of at most 24 bits is a binary32 exactly. -/
theorem ofNat_eq_finite {n : Nat} (hpos : 0 < n) (hle : n ≤ 2 ^ 24) : F32.ofNat n = .finite false (2 ^ 149 * n) := by
  rcases Nat.eq_or_lt_of_le hle with rfl | hlt
  · decide +kernel
  have hlog : n.log2 < 24 := (Nat.log2_lt hpos.ne').mpr hlt
  -- the significand is normalised: `n` shifted left until it has 24 bits
  have hsig : IsSignificand (149 - (23 - n.log2)) (2 ^ (23 - n.log2) * n) := by
    refine ⟨le_of_lt ?_, .inr ?_⟩
    · calc 2 ^ (23 - n.log2) * n < 2 ^ (23 - n.log2) * 2 ^ (n.log2 + 1) := by gcongr; exact Nat.lt_log2_self
        _ = 2 ^ 24 := by rw [← Nat.pow_add, ← Nat.add_assoc, Nat.sub_add_cancel (by omega)]
    · calc 2 ^ 23 = 2 ^ (23 - n.log2) * 2 ^ n.log2 := by rw [← Nat.pow_add, Nat.sub_add_cancel (by omega)]
        _ ≤ 2 ^ (23 - n.log2) * n := by gcongr; exact Nat.log2_self_le hpos.ne'
  have hpattern : patternMag (2 ^ 23 * (149 - (23 - n.log2)) + 2 ^ (23 - n.log2) * n) = 2 ^ 149 * n := by
    rw [patternMag_add hsig, ← Nat.mul_assoc, ← Nat.pow_add]
    congr 2
    omega
  have hfinite : 2 ^ 23 * (149 - (23 - n.log2)) + 2 ^ (23 - n.log2) * n < 0x7F800000 := by
    have := hsig.1
    omega
  rw [F32.ofNat, ← hpattern, F32.round, roundMag_patternMag hfinite, ← ofBits_signedWord false hfinite]
  rfl

/-- The value of +0.0 or of a positive finite binary32 (10_state.md R42). -/
def IsFreq (x : F32) : Prop := ∃ k < 0x7F800000, x = .finite false (patternMag k)

theorem freqWord_toBits {x : F32} (h : IsFreq x) : FreqWord x.toBits := by
  obtain ⟨k, hk, rfl⟩ := h
  have hbits : (F32.finite false (patternMag k)).toBits = F32.pack false k := by rw [F32.toBits, roundMag_patternMag hk]
  have hnat : (F32.pack false k).toNat = k := by simpa using pack_toNat false (m := k) (by omega)
  rw [FreqWord, hbits, hnat]
  exact hk

/-- A quotient of magnitude below the overflow threshold rounds to a finite value. -/
theorem isFreq_round {a b : Nat} (hb : 0 < b) (h : a < (2 ^ 25 - 1) * 2 ^ 252 * b) : IsFreq (F32.round false a b) := by
  have hfin : roundMag a b < 0x7F800000 := by
    have hne := mt (roundMag_eq_inf_iff a hb).mp (by omega)
    have := roundMag_le a b
    omega
  exact ⟨roundMag a b, hfin, ofBits_signedWord false hfin⟩

/-- A finite magnitude lies below the overflow threshold. -/
theorem patternMag_lt_overflow {k : Nat} (hk : k < 0x7F800000) : patternMag k < (2 ^ 25 - 1) * 2 ^ 252 := by
  have h := mt (roundMag_eq_inf_iff (patternMag k) Nat.one_pos).mpr (by rw [roundMag_patternMag hk]; omega)
  omega

/-- Dividing by a natural number keeps a frequency finite. -/
theorem isFreq_div_ofNat {x : F32} {n : Nat} (hx : IsFreq x) (hpos : 0 < n) (hle : n ≤ 2 ^ 24) :
    IsFreq (F32.div x (F32.ofNat n)) := by
  obtain ⟨k, hk, rfl⟩ := hx
  have hmag := patternMag_lt_overflow hk
  rw [ofNat_eq_finite hpos hle, F32.div, if_neg (by positivity)]
  refine isFreq_round (by positivity) ?_
  calc 2 ^ 149 * patternMag k < 2 ^ 149 * ((2 ^ 25 - 1) * 2 ^ 252) := Nat.mul_lt_mul_of_pos_left hmag (by positivity)
    _ = (2 ^ 25 - 1) * 2 ^ 252 * (2 ^ 149 * 1) := by ring
    _ ≤ (2 ^ 25 - 1) * 2 ^ 252 * (2 ^ 149 * n) := by gcongr; exact hpos

/-- The frequency of a rate the commands accept is finite and not negative (41_pitch_detector.md R101). -/
theorem freqWord_freqOf {fs pm l : Nat} (hfs : 1 ≤ fs ∧ fs ≤ 2 ^ 24) (hpm : 0 < pm ∧ pm ≤ 2 ^ 24) (hl : l ≤ 24) :
    FreqWord (freqOf fs pm l) := by
  have hrate : IsFreq (F32.ofNat fs) := isFreq_round Nat.one_pos (by omega)
  exact freqWord_toBits (isFreq_div_ofNat (isFreq_div_ofNat hrate hpm.1 hpm.2) (Nat.two_pow_pos l)
    (Nat.pow_le_pow_right (by omega) hl))

/-! ### Modes -/

/-- The indices a walk has recorded lie below `b`. -/
def Walker.IndicesBelow (b : Nat) (w : Walker) : Prop := (∀ i ∈ w.maxIdx, i < b) ∧ ∀ i ∈ w.minIdx, i < b

theorem recordExtremum_indicesBelow {c : WalkLimits} {k b : Nat} {prev d : Int} {w : Walker} (hk : 0 < k) (hb : k ≤ b)
    (h : w.IndicesBelow b) : (recordExtremum c k prev d w).IndicesBelow b := by
  obtain ⟨hmax, hmin⟩ := h
  have hnew {idx : List Nat} (hidx : ∀ i ∈ idx, i < b) : ∀ i ∈ idx ++ [k - 1], i < b := by
    simp only [List.mem_append, List.mem_singleton]
    rintro i (hi | rfl)
    · exact hidx i hi
    · omega
  unfold recordExtremum
  split_ifs
  · exact ⟨hnew hmax, hmin⟩
  · exact ⟨hmax, hmin⟩
  · exact ⟨hmax, hnew hmin⟩
  · exact ⟨hmax, hmin⟩
  · exact ⟨hmax, hmin⟩

theorem walkFrom_indicesBelow {c : WalkLimits} {rest : List Int} : ∀ {k : Nat} {prev : Int} {w : Walker} {b : Nat}, 0 < k →
    k + rest.length ≤ b + 1 → w.IndicesBelow b → (walkFrom c k prev rest w).IndicesBelow b := by
  induction rest with
  | nil => exact fun _ _ h => h
  | cons cur rest ih =>
    intro k prev w b hk hb h
    rw [List.length_cons] at hb
    exact ih (Nat.succ_pos k) (by omega) (recordExtremum_indicesBelow (w := w) hk (by omega) h)

/-- A walk records indices of its window only. -/
theorem walk_indicesBelow (c : WalkLimits) (seed : Climb) (aw : List Int) : (walk c seed aw).IndicesBelow aw.length := by
  cases aw with
  | nil => exact ⟨by simp [walk], by simp [walk]⟩
  | cons a rest => exact walkFrom_indicesBelow Nat.one_pos (by simp; omega) ⟨by simp, by simp⟩

theorem gaps_le {s b : Nat} {idx : List Nat} (h : ∀ i ∈ idx, i < b) : ∀ d ∈ gaps s idx, d ≤ b := by
  intro d hd
  rw [gaps, ← List.map_uncurry_zip_eq_zipWith, List.mem_map] at hd
  obtain ⟨⟨later, earlier⟩, hpair, rfl⟩ := hd
  have := h later (List.mem_of_mem_drop (List.of_mem_zip hpair).1)
  simp only [Function.uncurry]
  omega

theorem candidates_le {b : Nat} {maxIdx minIdx : List Nat} (hmax : ∀ i ∈ maxIdx, i < b) (hmin : ∀ i ∈ minIdx, i < b) :
    ∀ d ∈ candidates maxIdx minIdx, d ≤ b := by
  simp only [candidates, List.mem_append]
  rintro d (((hd | hd) | hd | hd) | hd | hd)
  exacts [gaps_le hmax d hd, gaps_le hmin d hd, gaps_le hmax d hd, gaps_le hmin d hd, gaps_le hmax d hd,
    gaps_le hmin d hd]

/-- The refined mode is an average of candidates. -/
theorem refine_le {md b best : Nat} {D : List Nat} (h : ∀ d ∈ D, d ≤ b) : Machine.refine md D best ≤ b := by
  unfold Machine.refine
  split_ifs
  · exact Nat.zero_le b
  · refine Nat.div_le_of_le_mul ?_
    have := List.sum_le_card_nsmul (D.filter fun e => near md e best) b fun d hd => h d (List.mem_filter.mp hd).1
    simpa using this

theorem levelState_mode_le (c : Call) (l : Nat) (aw : List Int) (prev : Option LevelState) :
    (levelState c l aw prev).mode ≤ aw.length := by
  obtain ⟨hmax, hmin⟩ := walk_indicesBelow ⟨minDist c.params c.fs l, c.mean, c.maxThr, c.minThr⟩
    (climbSeed c.params c.frame aw) aw
  simp only [levelState, modeOf]
  split_ifs
  · exact refine_le (candidates_le hmax hmin)
  · exact Nat.zero_le _

theorem halve_length_le : ∀ xs : List Int, (halve xs).length ≤ xs.length
  | [] | [_] => Nat.zero_le _
  | a :: b :: rest => by
    have := halve_length_le rest
    simp only [halve, List.length_cons]
    omega

theorem confirms_mode_ne_zero {md : Nat} {q cur : LevelState} (h : confirms md (some q) cur = true) : q.mode ≠ 0 := by
  simp only [confirms, Bool.and_eq_true, bne_iff_ne] at h
  obtain ⟨⟨⟨-, hmode⟩, -⟩, -⟩ := h
  exact hmode

/-- A scan confirms a mode that is not 0 and that the window's length bounds, at one of its levels. -/
theorem scanLevels_confirmed {c : Call} {k : Nat} : ∀ {l b pm lv : Nat} {aw : List Int} {prev : Option LevelState},
    aw.length ≤ b → (∀ q ∈ prev, q.mode ≤ b) → scanLevels c k l aw prev = .confirmed pm lv →
      pm ≠ 0 ∧ pm ≤ b ∧ lv < l + k := by
  induction k with
  | zero => exact fun _ _ h => by simp [scanLevels] at h
  | succ k ih =>
    intro l b pm lv aw prev haw hprev h
    have hhalf : (halve aw).length ≤ b := (halve_length_le aw).trans haw
    simp only [scanLevels] at h
    split_ifs at h with hc
    · cases prev with
      | none => simp at h
      | some q =>
        cases h
        exact ⟨confirms_mode_ne_zero hc, hprev q rfl, by omega⟩
    · have hcur : ∀ q ∈ some (levelState c l (halve aw) prev), q.mode ≤ b := by
        rintro q ⟨⟩
        exact (levelState_mode_le c l (halve aw) prev).trans hhalf
      obtain ⟨hpm, hle, hlv⟩ := ih hhalf hcur h
      exact ⟨hpm, hle, by omega⟩

/-- What the scan confirms for a state's frame and configuration. -/
theorem scanOf_confirmed {fs pm l : Nat} {s : State} (h : scanOf fs s = .confirmed pm l) :
    0 < pm ∧ pm ≤ s.detN.toNat ∧ l < s.detLevels.toNat := by
  obtain ⟨hpm, hle, hl⟩ := scanLevels_confirmed (b := s.detN.toNat) (by simp [frameSamples]) (by simp) h
  exact ⟨Nat.pos_of_ne_zero hpm, hle, by omega⟩

end Sys2Proof.Machine
end

section
/-! PROOFS. The invariant: it holds right after reset, and every effect of a step keeps it (10_state.md R42;
43_pitch_shifter.md R120). The memory's part comes first: no operation writes a byte outside the buffers, and those that may
run while the shifter is configured leave the accumulator's head 0. -/

namespace Sys2Proof.Machine

/-! ### The buffers' bytes -/

/-- The memory lists only bytes of the build's buffers (20_memory.md R45). -/
def InBuffers (p : Params) (m : Memory) : Prop := ∀ c ∈ m, BufferByte p c.1

theorem bufferByte_of_byteOf {p : Params} {b : Buf} {i a : Nat} (hi : i < b.length p) (ha : ByteOf b i a) :
    BufferByte p a := by
  simp only [BufferByte]
  cases b with
  | frame | hist | acc | win =>
    simp only [ByteOf, elemAddr] at ha
    omega

theorem writeElem_inBuffers {p : Params} {b : Buf} {i : Nat} (v : Sample) {m : Memory} (hi : i < b.length p)
    (h : InBuffers p m) : InBuffers p (writeElem b i v m) := by
  intro c hc
  rcases mem_setByte hc with ⟨rfl, -⟩ | hc
  · exact bufferByte_of_byteOf hi (.inl rfl)
  rcases mem_setByte hc with ⟨rfl, -⟩ | hc
  · exact bufferByte_of_byteOf hi (.inr rfl)
  · exact h c hc

theorem clearElems_inBuffers {p : Params} (b : Buf) (n : Nat) {m : Memory} (h : InBuffers p m) :
    InBuffers p (clearElems b n m) := fun c hc => h c (List.mem_filter.mp hc).1

theorem copyElems_inBuffers {p : Params} {d : Buf} {dj n : Nat} (sb : Buf) (sj : Nat) {m : Memory}
    (hd : dj + n ≤ d.length p) (h : InBuffers p m) : InBuffers p (copyElems d dj sb sj n m) :=
  forUp_keeps h fun i _ hi hm => writeElem_inBuffers _ (by omega) hm

/-- An index of a pass lies at most at the highest the checks admit (43_pitch_shifter.md R114). -/
theorem pass_index_le_lastAccIndex {p : Shift} {j i : Nat} (hj : j < p.k) (hi : i < p.s + p.sh) :
    j * p.ss + i ≤ lastAccIndex p := by
  have : j * p.ss ≤ (p.k - 1) * p.ss := Nat.mul_le_mul_right _ (by omega)
  unfold lastAccIndex
  omega

theorem overlapAdd_inBuffers {p : Params} {n : Nat} {q : Shift} {m : Memory} (hacc : lastAccIndex q < 2 * n)
    (hn : n ≤ p.maxWindow) (h : InBuffers p m) : InBuffers p (overlapAdd n q m) := by
  refine forUp_keeps h fun j _ hj hm => forUp_keeps hm fun i m' hi hm' => ?_
  have := pass_index_le_lastAccIndex hj hi
  unfold accumulate
  split_ifs
  · exact writeElem_inBuffers _ (by simp only [Buf.length]; omega) hm'
  · exact hm'

/-- The buffers after SHF_CORRECT list only bytes of the buffers: the checks bound the window and the accumulator. -/
theorem correctFrame_inBuffers {p : Params} {n : Nat} {q : Shift} {m : Memory} (hl : q.l ≤ n)
    (hacc : lastAccIndex q < 2 * n) (hn : n ≤ p.maxWindow) (h : InBuffers p m) : InBuffers p (correctFrame n q m) := by
  have hslide : InBuffers p (slideHistory n m) :=
    copyElems_inBuffers _ _ (by simp only [Buf.length]; omega)
      (copyElems_inBuffers _ _ (by simp only [Buf.length]; omega) h)
  have hwindow : InBuffers p (buildWindow q.l (slideHistory n m)) :=
    forUp_keeps hslide fun i _ hi hm => writeElem_inBuffers _ (by simp only [Buf.length]; omega) hm
  exact clearElems_inBuffers _ _ (copyElems_inBuffers _ _ (by simpa only [Buf.length, Nat.zero_add] using hn)
    (overlapAdd_inBuffers hacc hn hwindow))

/-! ### The accumulator's head -/

theorem readElem_clearElems_self {b : Buf} {n j : Nat} (hj : j < n) (m : Memory) : readElem (clearElems b n m) b j = 0 := by
  have hlow : bufBase b ≤ elemAddr b j ∧ elemAddr b j < bufBase b + 2 * n := by unfold elemAddr; omega
  have hhigh : bufBase b ≤ elemAddr b j + 1 ∧ elemAddr b j + 1 < bufBase b + 2 * n := by unfold elemAddr; omega
  simp only [readElem, clearElems, byteAt_clearRange, if_pos hlow, if_pos hhigh]
  rfl

/-- SHF_CORRECT clears the head it wrote back (43_pitch_shifter.md R118, R120). -/
theorem acc_correctFrame {n j : Nat} (hj : j < n) (q : Shift) (m : Memory) : readElem (correctFrame n q m) .acc j = 0 :=
  readElem_clearElems_self hj _

/-- SHF_CONFIG clears the whole accumulator (43_pitch_shifter.md R110). -/
theorem acc_clearShifterBuffers {p : Params} {j : Nat} (hp : p.maxWindow ≤ 2048) (hj : j < p.maxWindow) (m : Memory) :
    readElem (clearShifterBuffers p m) .acc j = 0 := by
  have hkeep : readElem (clearShifterBuffers p m) .acc j =
      readElem (clearElems .acc (2 * p.maxWindow) (clearElems .hist (2 * p.maxWindow) m)) .acc j := by
    have hlow : ¬(bufBase .win ≤ elemAddr .acc j ∧ elemAddr .acc j < bufBase .win + 2 * p.maxWindow) := by
      simp only [bufBase, elemAddr]; omega
    have hhigh : ¬(bufBase .win ≤ elemAddr .acc j + 1 ∧ elemAddr .acc j + 1 < bufBase .win + 2 * p.maxWindow) := by
      simp only [bufBase, elemAddr]; omega
    rw [clearShifterBuffers, clearElems, readElem, byteAt_clearRange, byteAt_clearRange, if_neg hlow, if_neg hhigh]
    rfl
  rw [hkeep]
  exact readElem_clearElems_self (by omega) _

/-- A write to FRAME does not reach the accumulator. -/
theorem acc_writeElem_frame {p : Params} {i : Nat} (hp : p.maxWindow ≤ 2048) (hi : i < p.maxWindow) (v : Sample)
    (m : Memory) (j : Nat) : readElem (writeElem .frame i v m) .acc j = readElem m .acc j := by
  refine readElem_writeElem_of_ne ?_ ?_ ?_
  all_goals
    simp only [elemAddr, bufBase]
    omega

/-! ### What a step writes that the invariant does not constrain -/

theorem Inv.setRes {s : State} (h : Inv s) (v : Word) : Inv (s.setRes v) := { h with }

theorem Inv.advance {s : State} (h : Inv s) : Inv s.advance := { h with }

/-! ### Each effect keeps the invariant -/

theorem Inv.takeFault {s : State} (h : Inv s) {c : Cause} (hnone : c ≠ .none) (hbusy : c ≠ .cmdWhileBusy) :
    Inv (takeFault c s) :=
  { h with
    not_busy := rfl
    fault_iff_cause := by simpa using hnone
    cause_occurs := hbusy }

theorem inv_resetWith {p : Params} (hp : p.legal = true) : Inv (State.resetWith p) where
  params_legal := hp
  mem_canonical := ⟨List.Pairwise.nil, by simp⟩
  mem_in_buffers := by simp
  not_busy := rfl
  fault_iff_cause := ⟨fun _ => rfl, fun _ => rfl⟩
  cause_occurs := Cause.noConfusion
  det_unconfigured := fun _ => ⟨rfl, rfl, rfl⟩
  det_levels := Nat.zero_le _
  det_configured := by simp [Status.reset]
  shf_unconfigured := fun _ => rfl
  shf_configured := by simp [Status.reset]
  ring_ptr := Nat.zero_le _
  freqs := by simp [State.resetWith, Ring.zero, Ring.toList]
  last_mode := by simp [State.resetWith]
  acc_head := by simp [Status.reset]

/-- Settles O11: the reference build is one of the builds that exist. -/
theorem resetMeetsInvariant : Obligations.ResetMeetsInvariant :=
  ⟨fun _ hp => inv_resetWith hp, inv_resetWith (by decide)⟩

theorem Inv.resetEvent {s : State} (h : Inv s) : Inv (resetEvent s) := { inv_resetWith h.params_legal with }

/-- A clamped frame length is in the range of 10_state.md R42. -/
theorem clampedLength_mem {p : Params} (hp : 8 ≤ p.maxWindow) (n : Int) :
    4 ≤ clampedLength p n ∧ clampedLength p n ≤ p.maxWindow := by
  have := clamp_mem n (lo := Config.minFrameLength) (hi := p.maxWindow) (by simp only [Config.minFrameLength]; omega)
  simp only [clampedLength, Config.minFrameLength] at *
  omega

theorem clampedLevels_le (s : State) : clampedLevels s ≤ s.params.maxLevels := by
  have := clamp_mem (s32 s.arg0) (lo := 0) (hi := s.params.maxLevels) (by omega)
  unfold clampedLevels
  omega

theorem Inv.configureDetector {s : State} (h : Inv s)
    (hvalid : detConfigValid (clampedLevels s) (clampedLength s.params (s32 s.arg1)) = true) :
    Inv (s.configureDetector (clampedLevels s) (clampedLength s.params (s32 s.arg1))) := by
  obtain ⟨hmax, hwmin, hwmax⟩ := ranges_of_legal h.params_legal
  have hlevels := clampedLevels_le s
  have hn := clampedLength_mem hwmin (s32 s.arg1)
  have hlevelsNat : (BitVec.ofNat 32 (clampedLevels s)).toNat = clampedLevels s := Nat.mod_eq_of_lt (by omega)
  have hnNat : (BitVec.ofNat 32 (clampedLength s.params (s32 s.arg1))).toNat = clampedLength s.params (s32 s.arg1) :=
    Nat.mod_eq_of_lt (by omega)
  exact { h with
    det_unconfigured := by simp
    det_levels := hlevelsNat.trans_le hlevels
    det_configured := fun _ => by
      simp only [configureDetector_detN, configureDetector_detLevels, configureDetector_params, hlevelsNat, hnNat]
      exact ⟨hn.1, hn.2, hvalid⟩
    ring_ptr := Nat.zero_le _
    freqs := by simp [Ring.zero, Ring.toList]
    last_mode := by simp }

/-- A frequency pushed into the ring stands beside words that were there before. -/
theorem mem_toList_set {r : Ring} {k : Nat} {v w : Word} (h : w ∈ (r.set k v).toList) : w = v ∨ w ∈ r.toList := by
  unfold Ring.set at h
  split at h <;> simp only [Ring.toList, List.mem_cons, List.not_mem_nil, or_false] at h ⊢ <;> tauto

theorem Inv.push {s : State} (h : Inv s) {v : Word} (hv : FreqWord v) : Inv (s.push v) :=
  { h with
    ring_ptr := by simp only [push_ringPtr, BitVec.toNat_ofNat]; omega
    freqs := by
      simp only [push_lastFreq, push_heldFreq, push_ring, List.forall_mem_cons]
      obtain ⟨hlast, hrest⟩ := List.forall_mem_cons.mp h.freqs
      obtain ⟨hheld, hring⟩ := List.forall_mem_cons.mp hrest
      refine ⟨hlast, hheld, fun w hw => ?_⟩
      rcases mem_toList_set hw with rfl | hw
      · exact hv
      · exact hring w hw }

theorem Inv.recordPitch {s : State} (h : Inv s) {mode freq : Word} (hmode : mode.toNat < 2 ^ 16) (hfreq : FreqWord freq) :
    Inv (s.recordPitch mode freq) :=
  { h with
    freqs := List.forall_mem_cons.mpr ⟨hfreq, (List.forall_mem_cons.mp h.freqs).2⟩
    last_mode := hmode }

theorem Inv.setHeld {s : State} (h : Inv s) {v : Word} (hv : FreqWord v) : Inv (s.setHeld v) :=
  { h with
    freqs := by
      obtain ⟨hlast, hrest⟩ := List.forall_mem_cons.mp h.freqs
      exact List.forall_mem_cons.mpr ⟨hlast, List.forall_mem_cons.mpr ⟨hv, (List.forall_mem_cons.mp hrest).2⟩⟩ }

theorem Inv.setConf {s : State} (h : Inv s) (hcfg : s.status.detCfg = true) (b : Bool) : Inv (s.setConf b) :=
  { h with det_unconfigured := fun hno => absurd hcfg (by simpa using hno) }

/-- A core estimate that its checks let run returns a frequency and keeps the invariant (41_pitch_detector.md R100 to
R103). -/
theorem Inv.estimate {s : State} (h : Inv s) (hcheck : estimateCheck s = none) :
    FreqWord (estimate s.arg0.toNat s).1 ∧ Inv (estimate s.arg0.toNat s).2 := by
  obtain ⟨hcfg, hfs⟩ := estimateCheck_eq_none.mp hcheck
  obtain ⟨hmax, -, hwindow⟩ := ranges_of_legal h.params_legal
  have hlevels := h.det_levels
  obtain ⟨-, hn, -⟩ := h.det_configured hcfg
  unfold Machine.estimate
  cases hscan : scanOf s.arg0.toNat s with
  | confirmed pm l =>
    obtain ⟨hpos, hpm, hl⟩ := scanOf_confirmed hscan
    have hfreq : FreqWord (freqOf s.arg0.toNat pm l) := freqWord_freqOf hfs ⟨hpos, by omega⟩ (by omega)
    have hmode : (BitVec.ofNat 32 pm).toNat < 2 ^ 16 := by rw [BitVec.toNat_ofNat]; omega
    exact ⟨hfreq, { ((h.recordPitch hmode hfreq).push hfreq).setConf hcfg true with }⟩
  | pitchless =>
    have hzero : FreqWord 0 := by decide
    exact ⟨hzero, { (h.push hzero).setConf hcfg false with }⟩

theorem Inv.configureShifter {s : State} (h : Inv s) (n : Int) :
    Inv ((s.configureShifter (clampedLength s.params n)).setMem (clearShifterBuffers s.params s.mem)) := by
  obtain ⟨-, hwmin, hwmax⟩ := ranges_of_legal h.params_legal
  have hn := clampedLength_mem hwmin n
  have hnNat : (BitVec.ofNat 32 (clampedLength s.params n)).toNat = clampedLength s.params n :=
    Nat.mod_eq_of_lt (by omega)
  exact { h with
    mem_canonical := clearShifterBuffers_wf _ h.mem_canonical
    mem_in_buffers :=
      clearElems_inBuffers _ _ (clearElems_inBuffers _ _ (clearElems_inBuffers _ _ h.mem_in_buffers))
    shf_unconfigured := by simp
    shf_configured := fun _ => by
      simp only [setMem_shfN, configureShifter_shfN, setMem_params, configureShifter_params, hnNat]
      exact hn
    acc_head := fun _ j hj => by
      simp only [setMem_shfN, configureShifter_shfN, hnNat] at hj
      exact acc_clearShifterBuffers hwmax (by omega) s.mem }

theorem Inv.correct {s : State} (h : Inv s) {p : Shift} (hcheck : shiftChecks s = .ok p) :
    Inv (s.setMem (correctFrame s.shfN.toNat p s.mem)) := by
  obtain ⟨hcfg, -, -, -, -, -, -, -, -, hl, -, hacc⟩ := shiftChecks_ok hcheck
  obtain ⟨-, hn⟩ := h.shf_configured hcfg
  exact { h with
    mem_canonical := correctFrame_wf _ _ h.mem_canonical
    mem_in_buffers := correctFrame_inBuffers hl hacc hn h.mem_in_buffers
    acc_head := fun _ j hj => acc_correctFrame hj p s.mem }

theorem Inv.writeFrame {s : State} (h : Inv s) {i : Nat} (hi : i < s.params.maxWindow) (v : Sample) :
    Inv (s.setMem (writeElem .frame i v s.mem)) := by
  obtain ⟨-, -, hwmax⟩ := ranges_of_legal h.params_legal
  exact { h with
    mem_canonical := writeElem_wf _ _ _ h.mem_canonical
    mem_in_buffers := writeElem_inBuffers v hi h.mem_in_buffers
    acc_head := fun hcfg j hj => (acc_writeElem_frame hwmax hi v s.mem j).trans (h.acc_head hcfg j hj) }

theorem Inv.memWriteData {s : State} (h : Inv s) (addr n : Nat) (v : Word) : Inv (memWriteData addr n v s) := by
  rcases memWriteData_cases addr n v s with hw | hw | hw | hw | ⟨i, -, hi, hw⟩ <;> rw [hw]
  · exact h
  · exact { h with }
  · exact { h with }
  · exact { h with }
  · exact h.writeFrame hi _

/-! ### Commands and steps keep the invariant -/

theorem Inv.exec {i : Instr} {s t : State} (h : Inv s) (hexec : exec i s = .next t) : Inv t := by
  cases commandEffect_of_exec hexec with
  | unchanged => exact h
  | faulted hnone hbusy => exact h.takeFault hnone hbusy
  | q15 => exact h.setRes _
  | detConfigured hvalid => exact (h.configureDetector hvalid).setRes _
  | estimated _ hcheck => exact (h.estimate hcheck).2.setRes _
  | estimatedHeld hcheck =>
    obtain ⟨hfreq, hinv⟩ := h.estimate hcheck
    exact (hinv.setHeld hfreq).setRes _
  | shfConfigured => exact (h.configureShifter _).setRes _
  | corrected hcheck => exact (h.correct hcheck).setRes _
  | reset => exact h.resetEvent

/-- Settles O12, by the effects a step can have. -/
theorem stepKeepsInvariant : Obligations.StepKeepsInvariant := by
  intro s t h hstep
  have hadvance := h.advance
  cases stepEffect_of_step hstep with
  | idle => exact h
  | advanced => exact hadvance
  | read => exact { hadvance with }
  | dataWritten => exact hadvance.memWriteData _ _ _
  | command hexec => exact hadvance.exec hexec
  | faulted hnone hbusy =>
    refine hadvance.takeFault hnone fun hc => ?_
    rw [h.not_busy] at hbusy
    exact absurd (hbusy hc) (by decide)
  | reset => exact hadvance.resetEvent

end Sys2Proof.Machine
end

section
/-! PROOFS. The host's lines as a whole: every line has an effect, whatever the state, and what a data write of each
address reaches (20_memory.md R45 to R48; 30_encoding.md R60, R64). -/

namespace Sys2Proof.Machine

/-! ### Every line has an effect -/

theorem unlessFaulted_answers {s : State} {run : Result} (h : ∃ t, run = .next t) :
    ∃ t, unlessFaulted s run = .next t := by
  cases hf : s.status.fault with
  | true => exact ⟨s, unlessFaulted_of_faulted hf⟩
  | false => rwa [unlessFaulted_of_running hf]

/-- A failed check is a next state with the fault recorded (60_exceptions.md R126). -/
theorem exec_answers_of_estimateCommand {i : Instr} (hi : i ∈ estimateCommands) (s : State) :
    ∃ t, exec i s = .next t := by
  obtain ⟨policy, hexec, -⟩ := exec_eq_estimateCommand hi
  rw [hexec]
  refine unlessFaulted_answers ?_
  cases estimateCheck s with
  | some c => exact ⟨_, rfl⟩
  | none => exact ⟨_, rfl⟩

/-- No command is refused: each of the thirteen has an effect (30_encoding.md R60). -/
theorem exec_answers (i : Instr) (s : State) : ∃ t, exec i s = .next t := by
  cases i with
  | nop | q15mul | q15addw | q15adds | shfConfig => exact unlessFaulted_answers ⟨_, rfl⟩
  | detConfig =>
    refine unlessFaulted_answers ?_
    split_ifs
    · exact ⟨_, rfl⟩
    · exact ⟨_, rfl⟩
  | detEst | detEstMed | detEstLast | detEstOct | detEstRob => exact exec_answers_of_estimateCommand (by decide) s
  | shfCorrect =>
    refine unlessFaulted_answers ?_
    cases shiftChecks s with
    | error c => exact ⟨_, rfl⟩
    | ok p => exact ⟨_, rfl⟩
  | sreset => exact ⟨_, rfl⟩

/-- A CMD write is a fault, a command, or an illegal word, and each is a next state (30_encoding.md R61, R64). -/
theorem issueCommand_answers (w : Word) (s : State) : ∃ t, issueCommand w s = .next t := by
  unfold issueCommand
  split_ifs
  · exact unlessFaulted_answers ⟨_, rfl⟩
  · cases decode w with
    | some i => exact exec_answers i s
    | none => exact unlessFaulted_answers ⟨_, rfl⟩

theorem performEvent_answers (e : HostEvent) (s : State) : ∃ t, performEvent e s = .next t := by
  cases e with
  | read | wait | hardReset => exact ⟨_, rfl⟩
  | write addr n v =>
    simp only [performEvent, hostWrite]
    split_ifs
    · exact issueCommand_answers v s
    · exact ⟨_, rfl⟩
    · exact ⟨_, rfl⟩

/-- Settles O8: the host's next line answers by `performEvent_answers`, and past the last line the step idles. -/
theorem stepAlwaysAnswers : Obligations.StepAlwaysAnswers := by
  intro s
  cases he : s.host.program[s.host.position]? with
  | none => exact ⟨s, step_of_end he⟩
  | some e =>
    rw [step_of_event he]
    exact performEvent_answers e s.advance

/-! ### Host writes -/

theorem step_write {s : State} {addr n : Nat} {v : Word} (hevent : NextEvent s (.write addr n v))
    (hbusy : s.status.busy = false) (hcmd : ¬(addr = regOffset .cmd ∧ n = 4)) :
    step s = .next (memWriteData addr n v s.advance) := by
  have hidle : ¬s.advance.status.busy = true := by simp [hbusy]
  rw [step_of_event hevent, performEvent, hostWrite, if_neg hcmd, if_neg hidle]

/-- FRAME is looked up before the other buffers, so its elements are found whatever the build's window. -/
theorem elemAtAddr_frame {p : Params} {i : Nat} (hi : i < p.maxWindow) :
    elemAtAddr p (elemAddr .frame i) = some (.frame, i) := by
  have haddr : elemAddr .frame i = 0x1000 + 2 * i := rfl
  rw [elemAtAddr, if_neg (by omega), if_pos (by omega), show (elemAddr .frame i - 0x1000) / 2 = i by omega]

theorem memWriteData_frame {s : State} {i : Nat} (hi : i < s.params.maxWindow) (v : Word) :
    memWriteData (elemAddr .frame i) 2 v s = s.setMem (writeElem .frame i (v.setWidth 16) s.mem) := by
  have hlow : v.setWidth 16 = v.extractLsb' 0 16 := BitVec.setWidth_eq_extractLsb' (by decide)
  rw [memWriteData, if_neg (by decide), if_pos rfl, elemAtAddr_frame hi, hlow]

/-- A write that is neither an argument register's nor a FRAME element's has no effect (20_memory.md R48). -/
theorem memWriteData_unsupported {s : State} {addr n : Nat} (v : Word)
    (hreg : ∀ r : Reg, r.isArg = true → ¬(n = 4 ∧ addr = regOffset r))
    (helem : ∀ i < s.params.maxWindow, ¬(n = 2 ∧ addr = elemAddr .frame i)) : memWriteData addr n v s = s := by
  unfold memWriteData
  split_ifs with h4 h2
  · split
    case h_1 hr => exact absurd ⟨h4, regAtOffset_eq_some.mp hr⟩ (hreg .arg0 rfl)
    case h_2 hr => exact absurd ⟨h4, regAtOffset_eq_some.mp hr⟩ (hreg .arg1 rfl)
    case h_3 hr => exact absurd ⟨h4, regAtOffset_eq_some.mp hr⟩ (hreg .arg2 rfl)
    case h_4 => rfl
  · split
    case h_1 i he =>
      obtain ⟨haddr, hi⟩ := elemAtAddr_eq_some he
      exact absurd ⟨h2, haddr⟩ (helem i hi)
    case h_2 => rfl
  · rfl

theorem readElem_writeElem_same_buf {b : Buf} {i j : Nat} (h : j ≠ i) (v : Sample) (m : Memory) :
    readElem (writeElem b i v m) b j = readElem m b j := by
  refine readElem_writeElem_of_ne ?_ ?_ ?_
  all_goals
    simp only [elemAddr]
    omega

/-- FRAME's region ends at or below HIST's base, the lowest of the others (20_memory.md R45). -/
theorem readElem_writeElem_frame_of_ne {p : Params} (hp : p.maxWindow ≤ 2048) {i : Nat} (hi : i < p.maxWindow)
    {b : Buf} (hb : b ≠ .frame) (v : Sample) (m : Memory) (j : Nat) :
    readElem (writeElem .frame i v m) b j = readElem m b j := by
  have habove : 0x2000 ≤ elemAddr b j := by
    cases b with
    | frame => exact absurd rfl hb
    | hist | acc | win =>
      simp only [elemAddr, bufBase]
      omega
  have haddr : elemAddr .frame i = 0x1000 + 2 * i := rfl
  exact readElem_writeElem_of_ne (by omega) (by omega) (by omega)

/-- Settles O19: the step is `memWriteData`, at an argument register's offset, at an element of FRAME, or elsewhere; the
written element and what the write leaves alone are the laws of `writeElem`. -/
theorem hostWritesReachOnlyArgsAndFrame : Obligations.HostWritesReachOnlyArgsAndFrame := by
  intro s addr n v hevent hbusy hcmd
  have hstep := step_write hevent hbusy hcmd
  refine ⟨?_, ?_, ?_, ?_, ?_⟩
  · rintro rfl rfl
    exact hstep
  · rintro rfl rfl
    exact hstep
  · rintro rfl rfl
    exact hstep
  · rintro i rfl rfl hi
    refine ⟨writeElem .frame i (v.setWidth 16) s.mem, ?_, fun hwf => ⟨writeElem_wf _ _ _ hwf,
      readElem_writeElem_self hwf, fun j hj => readElem_writeElem_same_buf hj _ _,
      fun hp b j hb => readElem_writeElem_frame_of_ne hp hi hb _ _ j, fun a h0 h1 => byteAt_writeElem_of_ne h0 h1⟩⟩
    exact hstep.trans (congrArg _ (memWriteData_frame (s := s.advance) hi v))
  · intro hreg helem
    refine hstep.trans (congrArg _ (memWriteData_unsupported v (fun r hr => ?_) helem))
    cases r with
    | arg0 | arg1 | arg2 =>
      rintro ⟨hn, haddr⟩
      exact hreg ⟨hn, by simp [haddr, regOffset]⟩
    | _ => exact absurd hr (by decide)

end Sys2Proof.Machine
end

section
/-! PROOFS. The command word and its fields: a word decodes to a command exactly if it is that command's word, what a CMD
write of any other word does, and where the host's run ends (30_encoding.md R61, R63, R69). -/

namespace Sys2Proof.Machine

/-! ### The fields of a command word -/

/-- A word is a command's exactly if its reserved field is 0 and its opcode field holds the command's opcode. -/
theorem eq_encode_iff {w : Word} {i : Instr} : w = encode i ↔ rsvField w = 0 ∧ opField w = opcode i := by
  constructor
  · rintro rfl
    exact ⟨BitVec.extractLsb'_append_eq_left, BitVec.extractLsb'_append_eq_right⟩
  · rintro ⟨hrsv, hop⟩
    calc w = rsvField w ++ opField w := (BitVec.extractLsb'_append_extractLsb' (w := 24) (len := 8)).symm
      _ = encode i := by rw [hrsv, hop, encode]

/-! ### The decoder -/

/-- The opcode map of R63 names every command once. -/
theorem instrOfOpcode_eq_some {n : Nat} {i : Instr} : instrOfOpcode n = some i ↔ n = (opcode i).toNat := by
  constructor
  · intro h
    unfold instrOfOpcode at h
    split at h
    case h_14 => cases h
    all_goals
      cases h
      rfl
  · rintro rfl
    cases i <;> rfl

/-- Decoding examines the reserved field, then looks the opcode up (30_encoding.md R61). -/
theorem decode_eq_some {w : Word} {i : Instr} :
    decode w = some i ↔ rsvField w = 0 ∧ instrOfOpcode (opField w).toNat = some i := by
  simp only [decode, decodeWord]
  split_ifs with hrsv
  · exact ⟨nofun, fun ⟨h, _⟩ => absurd h hrsv⟩
  · rw [not_not] at hrsv
    cases instrOfOpcode (opField w).toNat <;> simp [hrsv]

/-- Settles O1: both sides say that the reserved field is 0 and the opcode field is the command's opcode. -/
theorem decodeInvertsEncode : Obligations.DecodeInvertsEncode := by
  intro w i
  rw [decode_eq_some, instrOfOpcode_eq_some, eq_encode_iff, BitVec.toNat_inj]

theorem encode_toNat (i : Instr) : (encode i).toNat = (opcode i).toNat :=
  (toNat_append_eq_add (0 : BitVec 24) (opcode i)).trans (by simp)

theorem opcode_mem_assignedOpcodes (i : Instr) : (opcode i).toNat ∈ assignedOpcodes := by
  cases i <;> decide

/-- A word with a bit of 31:8 set or an opcode that R63 does not assign is no command's word. -/
theorem decode_eq_none_of_illegal {w : Word} (h : w.toNat / 256 ≠ 0 ∨ w.toNat % 256 ∉ assignedOpcodes) :
    decode w = none := by
  refine Option.eq_none_iff_forall_ne_some.mpr fun i hi => ?_
  obtain rfl := (decodeInvertsEncode w i).mp hi
  have hlt : (opcode i).toNat < 256 := (opcode i).isLt
  rw [encode_toNat, Nat.div_eq_of_lt hlt, Nat.mod_eq_of_lt hlt] at h
  exact h.elim (· rfl) (· (opcode_mem_assignedOpcodes i))

/-- Settles O2: the six legal words are their commands' by O1, the three others are illegal by R61. -/
theorem writtenWordsDecode : Obligations.WrittenWordsDecode := by
  have legal {w : Word} {i : Instr} (h : w = encode i) : decode w = some i := (decodeInvertsEncode w i).mpr h
  exact ⟨legal rfl, legal rfl, legal rfl, legal rfl, legal rfl, legal rfl,
    decode_eq_none_of_illegal (.inl (by decide)), decode_eq_none_of_illegal (.inr (by decide)),
    decode_eq_none_of_illegal (.inr (by decide))⟩

/-! ### Illegal words and the end of the run -/

theorem step_cmdWrite {s : State} {w : Word} (hevent : NextEvent s (.write (regOffset .cmd) 4 w)) :
    step s = issueCommand w s.advance := by
  rw [step_of_event hevent, performEvent, hostWrite, if_pos ⟨rfl, rfl⟩]

theorem issueCommand_of_illegal {w : Word} {s : State} (hbusy : s.status.busy = false) (hfault : s.status.fault = false)
    (hdecode : decode w = none) : issueCommand w s = .next (takeFault .illegalCmd s) := by
  rw [issueCommand_of_idle hbusy, hdecode]
  exact unlessFaulted_of_running hfault

/-- Fault entry clears BUSY, so on an idle block it writes FAULT and CAUSE only (60_exceptions.md R126). -/
theorem takeFault_of_idle {s : State} (c : Cause) (hbusy : s.status.busy = false) :
    takeFault c s = { s with status := { s.status with fault := true, cause := c } } := by
  simp only [takeFault, ← hbusy]

/-- Settles O4: the word decodes to no command, and fault entry on the idle block writes FAULT and CAUSE only. -/
theorem illegalWordFaults : Obligations.IllegalWordFaults := by
  intro s w hevent hbusy hfault hword
  have hnone : decode w = none := decode_eq_none_of_illegal hword
  have hidle : s.advance.status.busy = false := hbusy
  rw [step_cmdWrite hevent, issueCommand_of_illegal hidle hfault hnone, takeFault_of_idle .illegalCmd hidle]
  rfl

/-- Settles O7: past the last line the host has no next event. -/
theorem runEndsIdle : Obligations.RunEndsIdle := fun _ hpast =>
  step_of_end (List.getElem?_eq_none hpast)

end Sys2Proof.Machine
end

section
/-! PROOFS. The Q15 commands: what the narrowing to 16 bits does to an integer, the effect of each command on RES, and the
product's range and corner cases (40_q15_arithmetic.md R70 to R77). -/

namespace Sys2Proof.Machine

/-! ### Reading and narrowing a sample -/

theorem neg_le_s16 (w : Word) : -32768 ≤ s16 w := BitVec.le_toInt _

theorem s16_le (w : Word) : s16 w ≤ 32767 := by
  have : s16 w < 32768 := BitVec.toInt_lt
  omega

theorem s16_eq_toInt_setWidth (w : Word) : s16 w = (w.setWidth 16).toInt := by
  have hfield : w.extractLsb' 0 16 = w.setWidth 16 := BitVec.eq_of_toNat_eq (by simp)
  rw [s16, hfield]

theorem bits16_s16 (w : Word) : bits16 (s16 w) = w.setWidth 16 := by
  rw [s16_eq_toInt_setWidth, bits16, BitVec.ofInt_toInt]

theorem neg_le_wrap16 (a : Int) : -32768 ≤ wrap16 a := by
  unfold wrap16
  omega

theorem wrap16_le (a : Int) : wrap16 a ≤ 32767 := by
  unfold wrap16
  omega

/-- Wrapping changes exactly the integers that are no samples. -/
theorem wrap16_eq_self_iff {a : Int} : wrap16 a = a ↔ -32768 ≤ a ∧ a ≤ 32767 := by
  unfold wrap16
  omega

/-- `wrap16` is the core library's balanced remainder. -/
theorem wrap16_eq_bmod (a : Int) : wrap16 a = a.bmod (2 ^ 16) := by
  rw [wrap16, Int.bmod_def]
  omega

/-- A pattern does not show whether its integer was wrapped first. -/
theorem bits16_wrap16 (a : Int) : bits16 (wrap16 a) = bits16 a := by
  apply BitVec.eq_of_toInt_eq
  rw [bits16, bits16, BitVec.toInt_ofInt, BitVec.toInt_ofInt, wrap16_eq_bmod, Int.bmod_bmod]

/-! ### The commands -/

theorem q15Command_of_running {s : State} (op : Int → Int → Int) (hfault : s.status.fault = false) :
    q15Command op s = .next { s with res := (bits16 (op (s16 s.arg0) (s16 s.arg1))).signExtend 32 } :=
  unlessFaulted_of_running hfault

/-- The pattern of the wrapped sum is the sum of the operands' patterns. -/
theorem bits16_q15addw_s16 (v w : Word) : bits16 (q15addw (s16 v) (s16 w)) = v.setWidth 16 + w.setWidth 16 := by
  calc bits16 (q15addw (s16 v) (s16 w)) = bits16 (s16 v + s16 w) := bits16_wrap16 _
    _ = bits16 (s16 v) + bits16 (s16 w) := BitVec.ofInt_add _ _
    _ = v.setWidth 16 + w.setWidth 16 := by rw [bits16_s16, bits16_s16]

/-- A sum of two samples lies far inside the clamp (R73). -/
theorem q15adds_eq_q15addw {x y : Int} (hx : -32768 ≤ x) (hx' : x ≤ 32767) (hy : -32768 ≤ y) (hy' : y ≤ 32767) :
    q15adds x y = q15addw x y := by
  have hclamp : min (max (x + y) (-0x7FFFFFFF)) 0x7FFFFFFF = x + y := by omega
  rw [q15adds, hclamp, q15addw]

/-- Settles O23: the pattern of `q15mul` is that of the product before its wrapping. -/
theorem q15mulWritesRoundedProduct : Obligations.Q15mulWritesRoundedProduct := by
  refine ⟨(decodeInvertsEncode _ _).mpr rfl, fun s hfault => (q15Command_of_running q15mul hfault).trans ?_⟩
  rw [q15mul, bits16_wrap16, bits16, s16_eq_toInt_setWidth, s16_eq_toInt_setWidth]

/-- Settles O24: the pattern of the wrapped sum is the sum of the operands' patterns. -/
theorem q15addwWrapsTheSum : Obligations.Q15addwWrapsTheSum := by
  refine ⟨(decodeInvertsEncode _ _).mpr rfl, fun s hfault => (q15Command_of_running q15addw hfault).trans ?_⟩
  rw [bits16_q15addw_s16]

/-- Settles O25: the operands are samples, so Q15ADDS writes what Q15ADDW does. -/
theorem q15addsNeverSaturates : Obligations.Q15addsNeverSaturates := by
  refine ⟨(decodeInvertsEncode _ _).mpr rfl, fun _ _ => q15adds_eq_q15addw,
    fun s hfault => (q15Command_of_running q15adds hfault).trans ?_⟩
  have hop : q15adds (s16 s.arg0) (s16 s.arg1) = q15addw (s16 s.arg0) (s16 s.arg1) :=
    q15adds_eq_q15addw (neg_le_s16 _) (s16_le _) (neg_le_s16 _) (s16_le _)
  rw [hop, bits16_q15addw_s16]

/-! ### The product's corner cases -/

theorem q15mul_comm (x y : Int) : q15mul x y = q15mul y x := by rw [q15mul, Int.mul_comm, q15mul]

theorem q15mul_zero (x : Int) : q15mul x 0 = 0 := by
  rw [q15mul, Int.mul_zero]
  rfl

/-- The least sample stands for -1: the product by it is exact, and only `-(-32768)` is no sample (R74). -/
theorem q15mul_min {x : Int} (hx : -32768 ≤ x) (hx' : x ≤ 32767) :
    q15mul x (-32768) = if x = -32768 then -32768 else -x := by
  have hexact : (x * -32768 + 0x4000) / 2 ^ 15 = -x := by omega
  rw [q15mul, hexact]
  split_ifs with hmin
  · subst hmin
    rfl
  · exact wrap16_eq_self_iff.mpr (by omega)

/-- The product by the greatest sample falls short of `x` by `x / 2^15`, which rounds to -1, 0 or 1 (R74). -/
theorem q15mul_max {x : Int} (hx : -32768 ≤ x) (hx' : x ≤ 32767) :
    q15mul x 32767 = if x ≤ -16384 then x + 1 else if x ≤ 16384 then x else x - 1 := by
  have hexact : (x * 32767 + 0x4000) / 2 ^ 15 = if x ≤ -16384 then x + 1 else if x ≤ 16384 then x else x - 1 := by
    split_ifs <;> omega
  rw [q15mul, hexact, wrap16_eq_self_iff]
  split_ifs <;> omega

/-- A factor above the least sample keeps the rounded product in a sample's range. -/
theorem q15mul_eq_exact_of_ne {x y : Int} (hx : -32768 < x) (hx' : x ≤ 32767) (hy : -32768 ≤ y) (hy' : y ≤ 32767) :
    q15mul x y = (x * y + 0x4000) / 2 ^ 15 := by
  have hprod : |x * y| ≤ 32767 * 32768 := by
    rw [abs_mul]
    exact mul_le_mul (abs_le.mpr (by omega)) (abs_le.mpr (by omega)) (abs_nonneg y) (by norm_num)
  obtain ⟨hlo, hhi⟩ := abs_le.mp hprod
  exact wrap16_eq_self_iff.mpr (by omega)

/-- The rounded product of two samples is no sample for the least sample's square only (R74). -/
theorem q15mul_ne_exact_iff {x y : Int} (hx : -32768 ≤ x) (hx' : x ≤ 32767) (hy : -32768 ≤ y) (hy' : y ≤ 32767) :
    q15mul x y ≠ (x * y + 0x4000) / 2 ^ 15 ↔ x = -32768 ∧ y = -32768 := by
  constructor
  · intro hne
    by_contra hboth
    refine hne ?_
    rcases hx.lt_or_eq with hxlt | rfl
    · exact q15mul_eq_exact_of_ne hxlt hx' hy hy'
    · rw [q15mul_comm, Int.mul_comm]
      exact q15mul_eq_exact_of_ne (by omega) hy' hx hx'
  · rintro ⟨rfl, rfl⟩
    decide

/-- Settles O26: a wrapped product is a sample, and each corner case is a lemma of its own. -/
theorem q15mulCornerCases : Obligations.Q15mulCornerCases := fun x y hx hx' hy hy' =>
  ⟨⟨neg_le_wrap16 _, wrap16_le _⟩, q15mul_comm x y, q15mul_zero x, q15mul_min hx hx', q15mul_max hx hx',
    q15mul_ne_exact_iff hx hx' hy hy'⟩

end Sys2Proof.Machine
end

section
/-! PROOFS. The detector's commands: a DET_CONFIG is valid or faults, an estimate command checks before it runs, and
DET_EST writes what its level scan finds (41_pitch_detector.md R78 to R82, R100 to R103). -/

namespace Sys2Proof.Machine

/-! ### DET_CONFIG -/

theorem clampedLevels_eq {s : State} {levels : Nat} (h : (levels : Int) = max 0 (min s.arg0.toInt s.params.maxLevels)) :
    clampedLevels s = levels := by
  rw [clampedLevels, clamp, s32, ← h, Int.toNat_natCast]

theorem clampedLength_eq {p : Params} {v : Int} {n : Nat} (h : (n : Int) = max 4 (min v p.maxWindow)) :
    clampedLength p v = n := by
  have hmin : (Config.minFrameLength : Int) = 4 := rfl
  rw [clampedLength, clamp, hmin, ← h, Int.toNat_natCast]

theorem detConfigValid_iff {levels n : Nat} :
    detConfigValid levels n = true ↔ levels = 0 ∨ (n % 2 ^ (levels - 1) = 0 ∧ 4 ≤ n / 2 ^ levels) := by
  simp [detConfigValid]

theorem exec_detConfig_of_valid {s : State} (hf : s.status.fault = false)
    (hvalid : detConfigValid (clampedLevels s) (clampedLength s.params (s32 s.arg1)) = true) :
    exec .detConfig s = .next ((s.configureDetector (clampedLevels s) (clampedLength s.params (s32 s.arg1))).setRes
      (halves (clampedLength s.params (s32 s.arg1)) (clampedLevels s))) :=
  (unlessFaulted_of_running hf).trans (if_pos hvalid)

theorem exec_detConfig_of_not_valid {s : State} (hf : s.status.fault = false)
    (hvalid : ¬detConfigValid (clampedLevels s) (clampedLength s.params (s32 s.arg1)) = true) :
    exec .detConfig s = .next (takeFault .detBadConfig s) :=
  (unlessFaulted_of_running hf).trans (if_neg hvalid)

/-- Settles O27: the operands clamp to `levels` and `n`, whose check passes. -/
theorem detConfigConfigures : Obligations.DetConfigConfigures := by
  intro s levels n hf hlevels hn hvalid
  have hl : clampedLevels s = levels := clampedLevels_eq hlevels
  have hlen : clampedLength s.params (s32 s.arg1) = n := clampedLength_eq hn
  have hexec := exec_detConfig_of_valid hf (by rw [hl, hlen]; exact detConfigValid_iff.mpr hvalid)
  rw [hl, hlen] at hexec
  exact hexec

/-- Settles O28: the operands clamp to `levels` and `n`, whose check fails. -/
theorem detConfigRejects : Obligations.DetConfigRejects := by
  intro s levels n hf hlevels hn hne hbad
  refine exec_detConfig_of_not_valid hf ?_
  rw [clampedLevels_eq hlevels, clampedLength_eq (v := s32 s.arg1) hn, detConfigValid_iff]
  omega

/-! ### The estimate commands' checks -/

theorem exec_of_estimateCheck_fails {i : Instr} {s : State} {c : Cause} (hi : i ∈ estimateCommands)
    (hf : s.status.fault = false) (hc : estimateCheck s = some c) : exec i s = .next (takeFault c s) := by
  obtain ⟨policy, hexec, -⟩ := exec_eq_estimateCommand hi
  rw [hexec, estimateCommand, unlessFaulted_of_running hf, hc]

/-- Settles O29: `estimateCheck` looks at DET_CFG first and at the sample rate second. -/
theorem estimateCommandsCheckFirst : Obligations.EstimateCommandsCheckFirst := by
  intro i s hi hf
  refine ⟨fun hcfg => ?_, fun hcfg hrate => ?_⟩
  · exact exec_of_estimateCheck_fails hi hf (if_pos hcfg)
  · have hcheck : estimateCheck s = some .badSampleRate := by
      rw [estimateCheck, if_neg (by simp [hcfg])]
      exact if_pos hrate
    exact exec_of_estimateCheck_fails hi hf hcheck

/-! ### What DET_EST writes -/

/-- The slot at the pointer takes the word; a pointer past the last slot writes none. -/
theorem toList_set (r : Ring) (k : Nat) (v : Word) : (r.set k v).toList = r.toList.set k v := by
  match k with
  | 0 | 1 | 2 | 3 | 4 => rfl
  | _ + 5 => simp [Ring.set, Ring.toList]

/-- A DET_EST that runs: the block is configured and not FAULTED, and the sample rate is in range (R81). -/
structure DetEstRuns (s : State) : Prop where
  not_faulted : s.status.fault = false
  configured : s.status.detCfg = true
  rate_pos : 1 ≤ s.arg0.toNat
  rate_le : s.arg0.toNat ≤ 2 ^ 24

/-- A DET_EST that runs writes RES with the raw estimate (R82). -/
theorem exec_detEst {s : State} (h : DetEstRuns s) :
    exec .detEst s = .next ((estimate s.arg0.toNat s).2.setRes (estimate s.arg0.toNat s).1) :=
  estimateCommand_of_check h.not_faulted (estimateCheck_eq_none.mpr ⟨h.configured, h.rate_pos, h.rate_le⟩)

/-- Settles O30: the two outcomes of the scan are `estimate_confirmed` and `estimate_pitchless`. -/
theorem detEstWritesTheEstimate : Obligations.DetEstWritesTheEstimate := by
  intro s hf hcfg hlo hhi
  refine ⟨_, (estimate s.arg0.toNat s).1, exec_detEst ⟨hf, hcfg, hlo, hhi⟩, ?_, ?_⟩
  · cases h : scanOf s.arg0.toNat s with
    | confirmed pm l =>
      rw [estimate_confirmed h]
      exact toList_set _ _ _
    | pitchless =>
      rw [estimate_pitchless h]
      exact toList_set _ _ _
  · cases h : scanOf s.arg0.toNat s with
    | confirmed pm l =>
      rw [estimate_confirmed h]
      exact ⟨rfl, rfl⟩
    | pitchless =>
      rw [estimate_pitchless h]
      exact ⟨rfl, rfl⟩

end Sys2Proof.Machine
end

section
/-! PROOFS. A window's halving, and what a call computes from its frame: the extremes, the mean and the thresholds
(41_pitch_detector.md R84 to R87). -/

namespace Sys2Proof.Machine

/-! ### Halving -/

theorem halve_length : ∀ xs : List Int, (halve xs).length = xs.length / 2
  | [] => rfl
  | [_] => by simp [halve]
  | a :: b :: rest => by
    have := halve_length rest
    simp only [halve, List.length_cons]
    omega

theorem halve_getD : ∀ (xs : List Int), ∀ j < xs.length / 2,
    (halve xs).getD j 0 = (xs.getD (2 * j + 1) 0 + xs.getD (2 * j) 0) / 2
  | [], j, hj => absurd hj (Nat.not_lt_zero j)
  | [_], j, hj => absurd hj (by simp)
  | _ :: _ :: _, 0, _ => rfl
  | a :: b :: rest, j + 1, hj => by
    have hrest : j < rest.length / 2 := by
      simp only [List.length_cons] at hj
      omega
    simpa only [halve, Nat.mul_add, List.getD_cons_succ] using halve_getD rest j hrest

theorem halve_iterate_length (l : Nat) (xs : List Int) : (halve^[l] xs).length = xs.length / 2 ^ l := by
  induction l with
  | zero => simp
  | succ l ih => rw [Function.iterate_succ_apply', halve_length, ih, Nat.div_div_eq_div_mul, Nat.pow_succ]

/-- Settles O38, along the recursion of `halve`. -/
theorem halvingAveragesPairs : Obligations.HalvingAveragesPairs := fun xs =>
  ⟨halve_length xs, halve_getD xs, fun l => halve_iterate_length l xs⟩

/-! ### The extremes -/

theorem globalMax_spec {xs : List Int} (h : xs ≠ []) : globalMax xs ∈ xs ∧ ∀ x ∈ xs, x ≤ globalMax xs := by
  obtain ⟨x, xs, rfl⟩ := List.exists_cons_of_ne_nil h
  exact List.max?_eq_some_iff.mp List.max?_cons'

theorem globalMin_spec {xs : List Int} (h : xs ≠ []) : globalMin xs ∈ xs ∧ ∀ x ∈ xs, globalMin xs ≤ x := by
  obtain ⟨x, xs, rfl⟩ := List.exists_cons_of_ne_nil h
  exact List.min?_eq_some_iff.mp List.min?_cons'

/-! ### Truncation toward zero -/

/-- The model's integer quotient is the exact rational truncated toward zero (00_scope.md R12). -/
theorem trunc0Div_eq_truncZero (z : Int) {n : Nat} (hn : 0 < n) : trunc0Div z n = truncZero ((z : ℚ) / n) := by
  have hsign : (0 : ℚ) ≤ (z : ℚ) / n ↔ 0 ≤ z := by
    rw [le_div_iff₀ (by exact_mod_cast hn), zero_mul, Int.cast_nonneg_iff]
  simp only [truncZero, hsign, Rat.floor_intCast_div_natCast, Rat.ceil_intCast_div_natCast, trunc0Div]
  split_ifs with hz
  · exact Int.tdiv_eq_ediv_of_nonneg hz
  · rw [← Int.tdiv_eq_ediv_of_nonneg (by omega), Int.neg_tdiv, neg_neg]

theorem meanOf_eq_truncZero {xs : List Int} (h : xs ≠ []) : meanOf xs = truncZero ((xs.sum : ℚ) / xs.length) :=
  trunc0Div_eq_truncZero _ (List.length_pos_iff.mpr h)

theorem threshold_eq_truncZero (mean extreme : Int) :
    threshold mean extreme = truncZero (mean + 3 / 4 * ((extreme : ℚ) - mean)) := by
  refine (trunc0Div_eq_truncZero _ (n := 4) (by norm_num)).trans (congrArg truncZero ?_)
  push_cast
  ring

/-! ### The order of the extremes, the mean and the thresholds -/

theorem le_meanOf {xs : List Int} {b : Int} (h : xs ≠ []) (hb : ∀ x ∈ xs, b ≤ x) : b ≤ meanOf xs := by
  have hpos : (0 : Int) < xs.length := by exact_mod_cast List.length_pos_iff.mpr h
  have hsum : xs.length * b ≤ xs.sum := by simpa using List.card_nsmul_le_sum xs b hb
  calc b = Int.tdiv (xs.length * b) xs.length := (Int.mul_tdiv_cancel_left b hpos.ne').symm
    _ ≤ meanOf xs := Int.tdiv_le_tdiv hpos hsum

theorem meanOf_le {xs : List Int} {b : Int} (h : xs ≠ []) (hb : ∀ x ∈ xs, x ≤ b) : meanOf xs ≤ b := by
  have hpos : (0 : Int) < xs.length := by exact_mod_cast List.length_pos_iff.mpr h
  have hsum : xs.sum ≤ xs.length * b := by simpa using List.sum_le_card_nsmul xs b hb
  calc meanOf xs ≤ Int.tdiv (xs.length * b) xs.length := Int.tdiv_le_tdiv hpos hsum
    _ = b := Int.mul_tdiv_cancel_left b hpos.ne'

theorem threshold_mono (mean : Int) : Monotone (threshold mean) := fun _ _ h =>
  Int.tdiv_le_tdiv (by norm_num) (by omega)

/-- Settles O39: truncation toward zero is monotone, so the mean and the thresholds keep the order of the extremes. -/
theorem thresholdsAreOrdered : Obligations.ThresholdsAreOrdered := by
  intro xs h
  obtain ⟨hmaxMem, hmax⟩ := globalMax_spec h
  obtain ⟨hminMem, hmin⟩ := globalMin_spec h
  exact ⟨⟨hmaxMem, hminMem, fun x hx => ⟨hmin x hx, hmax x hx⟩⟩, ⟨meanOf_eq_truncZero h, threshold_eq_truncZero⟩,
    ⟨le_meanOf h hmin, meanOf_le h hmax⟩, threshold_mono _ (hmax _ hminMem)⟩

end Sys2Proof.Machine
end

section
/-! PROOFS. The level scan: it confirms at the first level that agrees with the level before it, and it depends on the
frame, the rate, the configuration, LAST_MODE and the parameters only (41_pitch_detector.md R83, R97, R100, R103, R104). -/

namespace Sys2Proof.Machine

/-! ### The tie-break -/

theorem near_eq_true {md a b : Nat} : near md a b = true ↔ ((a : Int) - b).natAbs ≤ md := decide_eq_true_iff

theorem not_eq_zero_iff {w : Word} : ~~~w = 0 ↔ w = 0xFFFFFFFF := BitVec.not_eq_comm

/-- Settles O33, along the branches of `tie`. -/
theorem tieComparesWithTwiceTheReference : Obligations.TieComparesWithTwiceTheReference := by
  intro p lastMode md d prev
  unfold tie
  split_ifs with hones
  · simp [not_eq_zero_iff.mp hones]
  · have hne : lastMode ≠ 0xFFFFFFFF := mt not_eq_zero_iff.mpr hones
    rw [and_iff_right hne]
    cases htie : p.tieRef with
    | prevLevelMode => cases prev <;> simp [near_eq_true]
    | lastConfirmedMode => simp [near_eq_true, BitVec.toNat_eq]

/-! ### The scan's levels -/

/-- The state of the level before level `l`, none at level 0 (41_pitch_detector.md R99). -/
def levelBefore (c : Call) : Nat → Option LevelState
  | 0 => none
  | l + 1 => some (levelAt c l)

/-- The scan's pass at level `l` computes the state of level `l`. -/
theorem levelState_eq_levelAt (c : Call) (l : Nat) :
    levelState c l (halve (halve^[l] c.frame)) (levelBefore c l) = levelAt c l := by
  cases l with
  | zero => rfl
  | succ l => rw [← Function.iterate_succ_apply' halve, levelBefore, levelAt]

/-- R100's conditions, as the scan tests them at level `l + 1`. -/
theorem confirms_eq_true_iff (c : Call) (l : Nat) :
    confirms (minDist c.params c.fs (l + 1)) (levelBefore c (l + 1)) (levelAt c (l + 1)) = true ↔ LevelsAgree c l := by
  simp [confirms, levelBefore, LevelsAgree, near_eq_true, minDist, and_assoc]

/-- What the scan of `n` levels finds: the first level that agrees with the level before it, if there is one. -/
def ScanOutcome (c : Call) (n : Nat) : Scan → Prop
  | .confirmed pm l =>
    1 ≤ l ∧ l < n ∧ LevelsAgree c (l - 1) ∧ pm = (levelAt c (l - 1)).mode ∧ ∀ k, k + 1 < l → ¬LevelsAgree c k
  | .pitchless => ∀ k, k + 1 < n → ¬LevelsAgree c k

/-- There is at most one first agreement. -/
theorem ScanOutcome.unique {c : Call} {n : Nat} {r r' : Scan} (h : ScanOutcome c n r) (h' : ScanOutcome c n r') :
    r = r' := by
  -- an agreement below a level that no level below agrees with
  have hfirst {l m : Nat} (hl : 1 ≤ l) (hagree : LevelsAgree c (l - 1))
      (hnone : ∀ k, k + 1 < m → ¬LevelsAgree c k) : m ≤ l :=
    Nat.le_of_not_lt fun hlt => hnone (l - 1) (by omega) hagree
  cases r with
  | confirmed pm l =>
    obtain ⟨hl, hln, hagree, hpm, hnone⟩ := h
    cases r' with
    | confirmed pm' l' =>
      obtain ⟨hl', -, hagree', hpm', hnone'⟩ := h'
      obtain rfl : l = l' := le_antisymm (hfirst hl' hagree' hnone) (hfirst hl hagree hnone')
      rw [hpm, hpm']
    | pitchless => exact absurd (hfirst hl hagree h') (by omega)
  | pitchless =>
    cases r' with
    | confirmed pm' l' =>
      obtain ⟨hl', hln', hagree', -, -⟩ := h'
      exact absurd (hfirst hl' hagree' h) (by omega)
    | pitchless => rfl

/-- The loop from level `l` on, where no level up to `l` agreed before. -/
theorem scanLevels_outcome (c : Call) (k : Nat) : ∀ l, (∀ j, j + 1 < l → ¬LevelsAgree c j) →
    ScanOutcome c (l + k) (scanLevels c k l (halve^[l] c.frame) (levelBefore c l)) := by
  induction k with
  | zero => exact fun l hnone => hnone
  | succ k ih =>
    intro l hnone
    have hnext : (∀ j, j + 1 < l + 1 → ¬LevelsAgree c j) → ScanOutcome c (l + (k + 1))
        (scanLevels c k (l + 1) (halve (halve^[l] c.frame)) (some (levelAt c l))) := by
      intro hnone
      have := ih (l + 1) hnone
      rwa [Nat.add_right_comm, Function.iterate_succ_apply'] at this
    simp only [scanLevels, levelState_eq_levelAt]
    cases l with
    | zero => exact hnext fun j hj => by omega
    | succ l =>
      split_ifs with hconfirms
      · exact ⟨Nat.succ_pos l, by omega, (confirms_eq_true_iff c l).mp hconfirms, rfl, hnone⟩
      · refine hnext fun j hj => ?_
        rcases Nat.lt_succ_iff_lt_or_eq.mp hj with hlt | heq
        · exact hnone j hlt
        · obtain rfl : j = l := by omega
          exact mt (confirms_eq_true_iff c j).mpr hconfirms

/-- The call that the scan of a state makes (41_pitch_detector.md R83). -/
def callAt (fs : Nat) (s : State) : Call := callOf s.params fs s.lastMode (frameSamples s.mem s.detN.toNat)

theorem scanOf_eq_iff {fs : Nat} {s : State} {r : Scan} :
    scanOf fs s = r ↔ ScanOutcome (callAt fs s) s.detLevels.toNat r := by
  have hscan : ScanOutcome (callAt fs s) s.detLevels.toNat (scanOf fs s) := by
    have h := scanLevels_outcome (callAt fs s) s.detLevels.toNat 0 (by simp)
    rwa [Nat.zero_add] at h
  exact ⟨fun h => h ▸ hscan, hscan.unique⟩

/-- The samples of a call are those that stand in FRAME. -/
theorem frameSamples_getD (m : Memory) {n i : Nat} (h : i < n) : (frameSamples m n).getD i 0 = sampleAt m .frame i := by
  simp [frameSamples, h]

/-- Settles O31 with the call that the scan makes. -/
theorem scanConfirmsTheFirstAgreement : Obligations.ScanConfirmsTheFirstAgreement := fun fs s =>
  ⟨callAt fs s, ⟨rfl, rfl, rfl⟩, ⟨by simp [callAt, callOf, frameSamples], fun _ => frameSamples_getD s.mem⟩,
    ⟨rfl, rfl, rfl⟩, fun _ _ => scanOf_eq_iff, scanOf_eq_iff⟩

/-! ### Pitchless estimates -/

/-- A DET_EST whose scan is pitchless clears RES and CONF and keeps LAST_FREQ and LAST_MODE (R103). -/
theorem exec_detEst_of_pitchless {s : State} (hruns : DetEstRuns s) (h : scanOf s.arg0.toNat s = .pitchless) :
    ∃ t : State, exec .detEst s = .next t ∧ t.res = 0 ∧ t.status.conf = false ∧
      t.lastFreq = s.lastFreq ∧ t.lastMode = s.lastMode := by
  refine ⟨_, exec_detEst hruns, ?_⟩
  rw [estimate_pitchless h]
  exact ⟨rfl, rfl, rfl, rfl⟩

/-- Settles O44: an agreement needs two levels below DET_LEVELS. -/
theorem oneLevelNeverConfirms : Obligations.OneLevelNeverConfirms := by
  intro s hf hcfg hlo hhi hlevels
  have hscan : scanOf s.arg0.toNat s = .pitchless := scanOf_eq_iff.mpr fun k hk => by omega
  obtain ⟨t, hexec, hres, hconf, -⟩ := exec_detEst_of_pitchless ⟨hf, hcfg, hlo, hhi⟩ hscan
  exact ⟨t, hexec, hres, hconf⟩

/-! ### What an estimate depends on -/

/-- Under PREV_LEVEL_MODE the tie-break sees of LAST_MODE only whether it is all ones (R97). -/
theorem tie_eq_of_prevLevelMode {p : Params} {m m' : Word} (hp : p.tieRef = .prevLevelMode) (hm : m ≠ 0xFFFFFFFF)
    (hm' : m' ≠ 0xFFFFFFFF) : tie p m' = tie p m := by
  funext md prev d
  rw [Bool.eq_iff_iff, tieComparesWithTwiceTheReference, tieComparesWithTwiceTheReference]
  simp only [hp, ne_eq, hm, hm', not_false_eq_true, reduceCtorEq, false_and]

/-- Two calls that differ in a LAST_MODE which the tie-break does not tell apart scan alike. -/
theorem scanLevels_lastMode {c : Call} {m : Word} (htie : tie c.params m = tie c.params c.lastMode) (k : Nat) :
    ∀ l aw prev, scanLevels { c with lastMode := m } k l aw prev = scanLevels c k l aw prev := by
  have hlevel : ∀ l aw prev, levelState { c with lastMode := m } l aw prev = levelState c l aw prev := by
    simp only [levelState, htie, implies_true]
  induction k with
  | zero => exact fun _ _ _ => rfl
  | succ k ih => simp only [scanLevels, hlevel, ih, implies_true]

/-- RES and CONF after a DET_EST are what the scan decides. -/
theorem exec_detEst_of_scanOf_eq {s u : State} (hs : DetEstRuns s) (hu : DetEstRuns u)
    (h : scanOf u.arg0.toNat u = scanOf s.arg0.toNat s) (harg : u.arg0 = s.arg0) :
    ∃ t v : State, exec .detEst s = .next t ∧ exec .detEst u = .next v ∧
      v.res = t.res ∧ v.status.conf = t.status.conf := by
  refine ⟨_, _, exec_detEst hs, exec_detEst hu, ?_⟩
  cases hscan : scanOf s.arg0.toNat s with
  | confirmed pm l =>
    rw [estimate_confirmed hscan, estimate_confirmed (h.trans hscan), harg]
    exact ⟨rfl, rfl⟩
  | pitchless =>
    rw [estimate_pitchless hscan, estimate_pitchless (h.trans hscan)]
    exact ⟨rfl, rfl⟩

/-- Settles O45: the two blocks make calls that differ in LAST_MODE only, and not where the tie-break looks. -/
theorem estimateDependsOnFrameAndConfiguration : Obligations.EstimateDependsOnFrameAndConfiguration := by
  intro s u hsf huf hsc huc hlo hhi harg hparams hn hlevels hmode hframe
  refine exec_detEst_of_scanOf_eq ⟨hsf, hsc, hlo, hhi⟩ ⟨huf, huc, harg ▸ hlo, harg ▸ hhi⟩ ?_ harg
  have hsamples : frameSamples u.mem s.detN.toNat = frameSamples s.mem s.detN.toNat :=
    List.map_congr_left fun i hi => congrArg BitVec.toInt (hframe i (List.mem_range.mp hi))
  have htie : tie s.params u.lastMode = tie s.params s.lastMode := by
    rcases hmode with hmode | ⟨hp, hs, hu⟩
    · rw [hmode]
    · exact tie_eq_of_prevLevelMode hp hs hu
  calc scanOf u.arg0.toNat u
      = scanLevels { callAt s.arg0.toNat s with lastMode := u.lastMode } s.detLevels.toNat 0
          (frameSamples s.mem s.detN.toNat) none := by
        simp only [scanOf, harg, hparams, hn, hlevels, hsamples, callAt, callOf]
    _ = scanOf s.arg0.toNat s := scanLevels_lastMode htie _ _ _ _

end Sys2Proof.Machine
end

section
/-! PROOFS. The walk over a level's window: what it carries from sample to sample, said in terms of the samples and the
accepted indices, and from it which indices are accepted and how far apart they are (41_pitch_detector.md R89 to R93). -/

namespace Sys2Proof.Machine

/-! ### Directions, the search flag and the refractory counter -/

/-- The last difference up to index `j` that is not 0 is of kind `r`, or there is none and `start` holds: what `RisingTo`
and `FallingTo` have in common. -/
def ReachedBy (r : Int → Int → Prop) (start : Prop) (x : Nat → Int) (j : Nat) : Prop :=
  (start ∧ FlatBetween x 0 j) ∨ ∃ m, 1 ≤ m ∧ m ≤ j ∧ r (x (m - 1)) (x m) ∧ FlatBetween x m j

theorem risingTo_iff {seed : Climb} {x : Nat → Int} {j : Nat} :
    RisingTo seed x j ↔ ReachedBy (· < ·) (seed = .up) x j := Iff.rfl

theorem fallingTo_iff {seed : Climb} {x : Nat → Int} {j : Nat} :
    FallingTo seed x j ↔ ReachedBy (· > ·) (seed = .down) x j := Iff.rfl

theorem flatBetween_self (x : Nat → Int) (j : Nat) : FlatBetween x j j := fun n h h' => by omega

theorem flatBetween_succ {x : Nat → Int} {m j : Nat} (h : m ≤ j) :
    FlatBetween x m (j + 1) ↔ x (j + 1) = x j ∧ FlatBetween x m j := by
  constructor
  · exact fun hflat => ⟨hflat (j + 1) (by omega) le_rfl, fun n hn hn' => hflat n hn (by omega)⟩
  · rintro ⟨heq, hflat⟩ n hn hn'
    rcases Nat.le_succ_iff.mp hn' with hle | rfl
    · exact hflat n hn hle
    · exact heq

theorem reachedBy_zero {r : Int → Int → Prop} {start : Prop} {x : Nat → Int} : ReachedBy r start x 0 ↔ start := by
  constructor
  · rintro (⟨hstart, -⟩ | ⟨m, hm, hm', -⟩)
    · exact hstart
    · omega
  · exact fun hstart => .inl ⟨hstart, flatBetween_self x 0⟩

/-- A difference decides the direction, and a plateau keeps it (R90). -/
theorem reachedBy_succ {r : Int → Int → Prop} {start : Prop} {x : Nat → Int} {j : Nat} :
    ReachedBy r start x (j + 1) ↔ r (x j) (x (j + 1)) ∨ (x (j + 1) = x j ∧ ReachedBy r start x j) := by
  constructor
  · rintro (⟨hstart, hflat⟩ | ⟨m, hm, hmj, hr, hflat⟩)
    · obtain ⟨heq, hflat⟩ := (flatBetween_succ (Nat.zero_le j)).mp hflat
      exact .inr ⟨heq, .inl ⟨hstart, hflat⟩⟩
    · rcases Nat.le_succ_iff.mp hmj with hle | rfl
      · obtain ⟨heq, hflat⟩ := (flatBetween_succ hle).mp hflat
        exact .inr ⟨heq, .inr ⟨m, hm, hle, hr, hflat⟩⟩
      · exact .inl hr
  · rintro (hr | ⟨heq, ⟨hstart, hflat⟩ | ⟨m, hm, hmj, hr, hflat⟩⟩)
    · exact .inr ⟨j + 1, by omega, le_rfl, hr, flatBetween_self x _⟩
    · exact .inl ⟨hstart, (flatBetween_succ (Nat.zero_le j)).mpr ⟨heq, hflat⟩⟩
    · exact .inr ⟨m, hm, by omega, hr, (flatBetween_succ hmj).mpr ⟨heq, hflat⟩⟩

/-- The direction after a step from `prev` to `cur` (R90). -/
theorem climbAfter_eq_up {prev cur : Int} {d : Climb} :
    climbAfter (cur - prev) d = .up ↔ prev < cur ∨ (cur = prev ∧ d = .up) := by
  rcases lt_trichotomy prev cur with hlt | rfl | hgt
  · simp [climbAfter, hlt]
  · simp [climbAfter]
  · simp [climbAfter, hgt, hgt.ne, hgt.not_gt]

theorem climbAfter_eq_down {prev cur : Int} {d : Climb} :
    climbAfter (cur - prev) d = .down ↔ prev > cur ∨ (cur = prev ∧ d = .down) := by
  rcases lt_trichotomy prev cur with hlt | rfl | hgt
  · simp [climbAfter, hlt, hlt.ne', hlt.not_gt]
  · simp [climbAfter]
  · simp [climbAfter, hgt, hgt.not_gt]

theorem crossing_eq_true {mean prev cur : Int} :
    crossing mean prev cur = true ↔ (prev < mean ∧ mean ≤ cur) ∨ (mean < prev ∧ cur ≤ mean) := by
  simp [crossing]

/-- The flag is armed by a crossing, and stays armed past an index that is not accepted (R91, R93). -/
theorem armedAt_succ {mean : Int} {x : Nat → Int} {A : List Nat} {j : Nat} :
    ArmedAt mean x A (j + 1) ↔ (j ∉ A ∧ ArmedAt mean x A j) ∨ crossing mean (x j) (x (j + 1)) = true := by
  rw [crossing_eq_true]
  constructor
  · rintro ⟨m, hm, hmj, hcross, hfree⟩
    rcases Nat.le_succ_iff.mp hmj with hle | rfl
    · exact .inl ⟨fun hj => by have := hfree j hj (by omega); omega, m, hm, hle, hcross,
        fun i hi hij => hfree i hi (by omega)⟩
    · exact .inr hcross
  · rintro (⟨hj, m, hm, hmj, hcross, hfree⟩ | hcross)
    · refine ⟨m, hm, by omega, hcross, fun i hi hij => ?_⟩
      have hne : i ≠ j := fun heq => hj (heq ▸ hi)
      exact hfree i hi (by omega)
    · exact ⟨j + 1, by omega, le_rfl, hcross, fun i _ hij => hij⟩

/-- No crossing has been seen at the first sample. -/
theorem not_armedAt_zero {mean : Int} {x : Nat → Int} {A : List Nat} : ¬ArmedAt mean x A 0 := by
  rintro ⟨m, hm, hm', -⟩
  omega

/-- The search flag and the counter at an index depend on the indices accepted before it only. -/
theorem armedAt_congr {mean : Int} {x : Nat → Int} {A B : List Nat} {j : Nat} (h : ∀ i < j, i ∈ A ↔ i ∈ B) :
    ArmedAt mean x A j ↔ ArmedAt mean x B j := by
  have hfree (m : Nat) : (∀ i ∈ A, i < j → i < m) ↔ ∀ i ∈ B, i < j → i < m :=
    ⟨fun hA i hi hij => hA i ((h i hij).mpr hi) hij, fun hB i hi hij => hB i ((h i hij).mp hi) hij⟩
  simp only [ArmedAt, hfree]

theorem elapsedAt_congr {md : Nat} {A B : List Nat} {j : Nat} (h : ∀ i < j, i ∈ A ↔ i ∈ B) :
    ElapsedAt md A j ↔ ElapsedAt md B j :=
  ⟨fun hA i hi hij => hA i ((h i hij).mpr hi) hij, fun hB i hi hij => hB i ((h i hij).mp hi) hij⟩

/-! ### The accepted turning points -/

/-- The indices a walk has accepted, of both kinds. -/
def Walker.accepted (w : Walker) : List Nat := w.maxIdx ++ w.minIdx

/-- Index `j` is a maximum to accept, where the indices of `A` are accepted (R90 to R93). -/
def PeakAt (c : WalkLimits) (seed : Climb) (x : Nat → Int) (A : List Nat) (j : Nat) : Prop :=
  RisingTo seed x j ∧ x (j + 1) < x j ∧ c.maxThr ≤ x j ∧ ArmedAt c.mean x A j ∧ ElapsedAt c.md A j

/-- Index `j` is a minimum to accept, where the indices of `A` are accepted (R90 to R93). -/
def ValleyAt (c : WalkLimits) (seed : Climb) (x : Nat → Int) (A : List Nat) (j : Nat) : Prop :=
  FallingTo seed x j ∧ x j < x (j + 1) ∧ x j ≤ c.minThr ∧ ArmedAt c.mean x A j ∧ ElapsedAt c.md A j

theorem not_valleyAt_of_peakAt {c : WalkLimits} {seed : Climb} {x : Nat → Int} {A B : List Nat} {j : Nat}
    (h : PeakAt c seed x A j) : ¬ValleyAt c seed x B j := by
  obtain ⟨-, hfall, -⟩ := h
  rintro ⟨-, hrise, -⟩
  omega

/-- A condition on an index that depends on the indices accepted before it only. -/
def DependsBelow (T : List Nat → Nat → Prop) : Prop := ∀ A B j, (∀ i < j, i ∈ A ↔ i ∈ B) → (T A j ↔ T B j)

theorem peakAt_dependsBelow (c : WalkLimits) (seed : Climb) (x : Nat → Int) : DependsBelow (PeakAt c seed x) :=
  fun A B j h => by simp only [PeakAt, armedAt_congr h, elapsedAt_congr h]

theorem valleyAt_dependsBelow (c : WalkLimits) (seed : Climb) (x : Nat → Int) : DependsBelow (ValleyAt c seed x) :=
  fun A B j h => by simp only [ValleyAt, armedAt_congr h, elapsedAt_congr h]

/-- An index list that holds what `T` accepts below `j`, with `j` added if `T` accepts it, holds what `T` accepts below
`j + 1`. -/
theorem mem_iff_of_step {T : List Nat → Nat → Prop} (hT : DependsBelow T) {A A' idx idx' : List Nat} {j : Nat}
    (hA : ∀ i < j, i ∈ A' ↔ i ∈ A) (hidx : ∀ i, i ∈ idx ↔ i < j ∧ T A i)
    (hidx' : ∀ i, i ∈ idx' ↔ i ∈ idx ∨ (i = j ∧ T A j)) (i : Nat) : i ∈ idx' ↔ i < j + 1 ∧ T A' i := by
  have hbelow (hi : i ≤ j) : T A' i ↔ T A i := hT A' A i fun n hn => hA n (by omega)
  rw [hidx', hidx]
  rcases lt_trichotomy i j with hlt | rfl | hgt
  · simp [hlt, hlt.ne, Nat.lt_succ_of_lt hlt, hbelow hlt.le]
  · simp [hbelow le_rfl]
  · simp [hgt.ne', hgt.not_gt, Nat.not_lt.mpr (Nat.succ_le_of_lt hgt)]

theorem pairwise_lt_concat {l : List Nat} {j : Nat} (h : l.Pairwise (· < ·)) (hlt : ∀ i ∈ l, i < j) :
    (l ++ [j]).Pairwise (· < ·) :=
  List.pairwise_append.mpr ⟨h, List.pairwise_singleton _ _, fun i hi _ hk => List.mem_singleton.mp hk ▸ hlt i hi⟩

/-! ### The walk's invariant -/

/-- The walker has decided every index below `j` and stands at sample `j`: its direction, its flag and its counter mean
what R89 to R92 say of them, and its lists hold the indices to accept below `j`. -/
structure WalkedTo (c : WalkLimits) (seed : Climb) (x : Nat → Int) (j : Nat) (w : Walker) : Prop where
  rising : w.climb = .up ↔ RisingTo seed x j
  falling : w.climb = .down ↔ FallingTo seed x j
  armed : w.armed = true ↔ ArmedAt c.mean x w.accepted j
  /-- the counter is the least number of samples after which every accepted index is `md` behind -/
  counter : ∀ r, w.refr ≤ r ↔ ∀ i ∈ w.accepted, i + c.md ≤ j + r
  maxima : ∀ i, i ∈ w.maxIdx ↔ i < j ∧ PeakAt c seed x w.accepted i
  minima : ∀ i, i ∈ w.minIdx ↔ i < j ∧ ValleyAt c seed x w.accepted i
  maxima_rise : w.maxIdx.Pairwise (· < ·)
  minima_rise : w.minIdx.Pairwise (· < ·)

section
variable {c : WalkLimits} {seed : Climb} {x : Nat → Int} {j : Nat} {w : Walker}

theorem WalkedTo.accepted_lt (h : WalkedTo c seed x j w) : ∀ i ∈ w.accepted, i < j := by
  intro i hi
  rcases List.mem_append.mp hi with hi | hi
  · exact ((h.maxima i).mp hi).1
  · exact ((h.minima i).mp hi).1

theorem WalkedTo.refr_eq_zero_iff (h : WalkedTo c seed x j w) : w.refr = 0 ↔ ElapsedAt c.md w.accepted j := by
  rw [← Nat.le_zero, h.counter 0]
  exact ⟨fun hall i hi _ => hall i hi, fun hall i hi => hall i hi (h.accepted_lt i hi)⟩

/-- The walk starts with the seed's direction, unarmed and with nothing accepted (R89 to R92). -/
theorem walkedTo_zero (c : WalkLimits) (seed : Climb) (x : Nat → Int) : WalkedTo c seed x 0 ⟨seed, false, 0, [], []⟩ where
  rising := reachedBy_zero.symm
  falling := (fallingTo_iff.trans reachedBy_zero).symm
  armed := by simp [not_armedAt_zero]
  counter := by simp [Walker.accepted]
  maxima := by simp
  minima := by simp
  maxima_rise := .nil
  minima_rise := .nil

/-- The two tests of a candidate made one: a candidate that fails its own is not a candidate of the other kind. -/
theorem recordExtremum_eq (c : WalkLimits) (k : Nat) (prev d : Int) (w : Walker) :
    recordExtremum c k prev d w =
      if (w.climb = .up ∧ d < 0) ∧ c.maxThr ≤ prev ∧ w.armed ∧ w.refr = 0 then
        { w with maxIdx := w.maxIdx ++ [k - 1], armed := false, refr := c.md }
      else if (w.climb = .down ∧ 0 < d) ∧ prev ≤ c.minThr ∧ w.armed ∧ w.refr = 0 then
        { w with minIdx := w.minIdx ++ [k - 1], armed := false, refr := c.md }
      else w := by
  unfold recordExtremum
  by_cases hup : w.climb = .up ∧ d < 0
  · have hdown : ¬(w.climb = .down ∧ 0 < d) := fun hdown => absurd (hup.1.symm.trans hdown.1) (by decide)
    simp only [eq_true hup, eq_false hdown, true_and, false_and, if_true, if_false]
  · by_cases hdown : w.climb = .down ∧ 0 < d
    · simp only [eq_false hup, eq_true hdown, true_and, false_and, if_true, if_false]
    · simp only [eq_false hup, eq_false hdown, false_and, if_false]

/-- What recording leaves at index `j`, before the step moves on to sample `j + 1`. -/
structure RecordedAt (c : WalkLimits) (seed : Climb) (x : Nat → Int) (j : Nat) (w w' : Walker) : Prop where
  climb : w'.climb = w.climb
  armed : w'.armed = true ↔ j ∉ w'.accepted ∧ w.armed = true
  counter : ∀ r, w'.refr ≤ r + 1 ↔ ∀ i ∈ w'.accepted, i + c.md ≤ j + 1 + r
  maxima : ∀ i, i ∈ w'.maxIdx ↔ i ∈ w.maxIdx ∨ (i = j ∧ PeakAt c seed x w.accepted j)
  minima : ∀ i, i ∈ w'.minIdx ↔ i ∈ w.minIdx ∨ (i = j ∧ ValleyAt c seed x w.accepted j)
  maxima_rise : w'.maxIdx.Pairwise (· < ·)
  minima_rise : w'.minIdx.Pairwise (· < ·)

/-- The counter set to `md` at an accepted index. -/
theorem WalkedTo.counter_of_accept (h : WalkedTo c seed x j w) (helapsed : ElapsedAt c.md w.accepted j) {A : List Nat}
    (hA : ∀ i, i ∈ A ↔ i ∈ w.accepted ∨ i = j) (r : Nat) : c.md ≤ r + 1 ↔ ∀ i ∈ A, i + c.md ≤ j + 1 + r := by
  constructor
  · intro hr i hi
    rcases (hA i).mp hi with hi | rfl
    · have := helapsed i hi (h.accepted_lt i hi)
      omega
    · omega
  · intro hall
    have := hall j ((hA j).mpr (.inr rfl))
    omega

theorem WalkedTo.recordExtremum (h : WalkedTo c seed x j w) :
    RecordedAt c seed x j w (recordExtremum c (j + 1) (x j) (x (j + 1) - x j) w) := by
  have hmax : ∀ i ∈ w.maxIdx, i < j := fun i hi => h.accepted_lt i (List.mem_append_left _ hi)
  have hmin : ∀ i ∈ w.minIdx, i < j := fun i hi => h.accepted_lt i (List.mem_append_right _ hi)
  have hpeak : ((w.climb = .up ∧ x (j + 1) - x j < 0) ∧ c.maxThr ≤ x j ∧ w.armed ∧ w.refr = 0) ↔
      PeakAt c seed x w.accepted j := by
    simp only [PeakAt, h.rising, h.armed, h.refr_eq_zero_iff, sub_neg, and_assoc]
  have hvalley : ((w.climb = .down ∧ 0 < x (j + 1) - x j) ∧ x j ≤ c.minThr ∧ w.armed ∧ w.refr = 0) ↔
      ValleyAt c seed x w.accepted j := by
    simp only [ValleyAt, h.falling, h.armed, h.refr_eq_zero_iff, Int.sub_pos, and_assoc]
  rw [recordExtremum_eq]
  by_cases hp : PeakAt c seed x w.accepted j
  · have hv := not_valleyAt_of_peakAt (B := w.accepted) hp
    have ⟨_, _, _, _, helapsed⟩ := hp
    rw [if_pos (hpeak.mpr hp)]
    exact
      { climb := rfl
        armed := by simp [Walker.accepted]
        counter := h.counter_of_accept helapsed fun i => by simp [Walker.accepted]; tauto
        maxima := by simp [hp]
        minima := by simp [hv]
        maxima_rise := pairwise_lt_concat h.maxima_rise hmax
        minima_rise := h.minima_rise }
  rw [if_neg (mt hpeak.mp hp)]
  by_cases hv : ValleyAt c seed x w.accepted j
  · have ⟨_, _, _, _, helapsed⟩ := hv
    rw [if_pos (hvalley.mpr hv)]
    exact
      { climb := rfl
        armed := by simp [Walker.accepted]
        counter := h.counter_of_accept helapsed fun i => by simp [Walker.accepted, or_assoc]
        maxima := by simp [hp]
        minima := by simp [hv]
        maxima_rise := h.maxima_rise
        minima_rise := pairwise_lt_concat h.minima_rise hmin }
  · have hj : j ∉ w.accepted := fun hj => absurd (h.accepted_lt j hj) (Nat.lt_irrefl j)
    rw [if_neg (mt hvalley.mp hv)]
    exact
      { climb := rfl
        armed := by simp [hj]
        counter := fun r => by rw [h.counter, Nat.add_assoc, Nat.add_comm 1 r]
        maxima := by simp [hp]
        minima := by simp [hv]
        maxima_rise := h.maxima_rise
        minima_rise := h.minima_rise }

/-- One step of the walk decides index `j` and moves to sample `j + 1` (R93). -/
theorem WalkedTo.step (h : WalkedTo c seed x j w) :
    WalkedTo c seed x (j + 1) (walkStep c (j + 1) (x j) (x (j + 1)) w) := by
  have hrec := h.recordExtremum
  rw [walkStep]
  generalize Machine.recordExtremum c (j + 1) (x j) (x (j + 1) - x j) w = w' at hrec
  have hbelow : ∀ i < j, i ∈ w'.accepted ↔ i ∈ w.accepted := fun i hi => by
    simp [Walker.accepted, hrec.maxima, hrec.minima, hi.ne]
  constructor
  case rising => exact (climbAfter_eq_up.trans (by rw [hrec.climb, h.rising, risingTo_iff])).trans reachedBy_succ.symm
  case falling => exact (climbAfter_eq_down.trans (by rw [hrec.climb, h.falling, fallingTo_iff])).trans reachedBy_succ.symm
  case armed =>
    simp only [Bool.or_eq_true, hrec.armed, h.armed]
    rw [← armedAt_congr hbelow]
    exact armedAt_succ.symm
  case counter => exact fun r => Nat.sub_le_iff_le_add.trans (hrec.counter r)
  case maxima => exact mem_iff_of_step (peakAt_dependsBelow c seed x) hbelow h.maxima hrec.maxima
  case minima => exact mem_iff_of_step (valleyAt_dependsBelow c seed x) hbelow h.minima hrec.minima
  case maxima_rise => exact hrec.maxima_rise
  case minima_rise => exact hrec.minima_rise

end

/-- The rest of a walk, from sample `j` on, goes to the window's last sample. -/
theorem walkFrom_walkedTo {c : WalkLimits} {seed : Climb} {aw : List Int} (rest : List Int) : ∀ {j : Nat} {w : Walker},
    aw.drop (j + 1) = rest → j < aw.length → WalkedTo c seed (fun i => aw.getD i 0) j w →
      WalkedTo c seed (fun i => aw.getD i 0) (aw.length - 1) (walkFrom c (j + 1) (aw.getD j 0) rest w) := by
  induction rest with
  | nil =>
    intro j w hrest hj h
    obtain rfl : j = aw.length - 1 := by
      have := List.drop_eq_nil_iff.mp hrest
      omega
    exact h
  | cons cur rest ih =>
    intro j w hrest hj h
    have hj' : j + 1 < aw.length := by
      by_contra hle
      rw [List.drop_eq_nil_iff.mpr (by omega)] at hrest
      exact absurd hrest (by simp)
    rw [List.drop_eq_getElem_cons hj'] at hrest
    obtain ⟨hcur, hrest⟩ := List.cons.inj hrest
    have hcur : cur = aw.getD (j + 1) 0 := by rw [List.getD_eq_getElem _ _ hj', hcur]
    rw [walkFrom, hcur]
    exact ih hrest hj' h.step

/-- A walk over a window decides every index before the last one. -/
theorem walk_walkedTo (c : WalkLimits) (seed : Climb) (aw : List Int) :
    WalkedTo c seed (fun i => aw.getD i 0) (aw.length - 1) (walk c seed aw) := by
  cases aw with
  | nil => exact walkedTo_zero c seed _
  | cons a rest => exact walkFrom_walkedTo rest (aw := a :: rest) rfl (Nat.succ_pos _) (walkedTo_zero c seed _)

/-! ### The accepted indices of a window -/

/-- Settles O41: the walk's invariant at the window's last sample. -/
theorem armedTurningPointsAreAccepted : Obligations.ArmedTurningPointsAreAccepted := by
  intro c seed aw j
  have h := walk_walkedTo c seed aw
  have hlast : j < aw.length - 1 ↔ j + 1 < aw.length := by omega
  exact ⟨by rw [h.maxima j, hlast]; rfl, by rw [h.minima j, hlast]; rfl⟩

/-- Of two accepted indices the later one has waited for the counter (R92). -/
theorem WalkedTo.separated {c : WalkLimits} {seed : Climb} {x : Nat → Int} {n : Nat} {w : Walker}
    (h : WalkedTo c seed x n w) {i k : Nat} (hi : i ∈ w.accepted) (hk : k ∈ w.accepted) (hne : i ≠ k) :
    c.md ≤ ((i : Int) - k).natAbs := by
  have hwait {i k : Nat} (hi : i ∈ w.accepted) (hk : k ∈ w.accepted) (hlt : i < k) : i + c.md ≤ k := by
    rcases List.mem_append.mp hk with hk | hk
    · obtain ⟨-, -, -, -, -, helapsed⟩ := (h.maxima k).mp hk
      exact helapsed i hi hlt
    · obtain ⟨-, -, -, -, -, helapsed⟩ := (h.minima k).mp hk
      exact helapsed i hi hlt
  rcases Nat.lt_or_gt_of_ne hne with hlt | hgt
  · have := hwait hi hk hlt
    omega
  · have := hwait hk hi hgt
    omega

/-- Settles O40: no index is accepted twice, and of two accepted indices the later one has waited for the counter. -/
theorem acceptedExtremaAreSeparated : Obligations.AcceptedExtremaAreSeparated := by
  intro c seed aw _
  have h := walk_walkedTo c seed aw
  have hnodup : (walk c seed aw).accepted.Nodup := by
    refine List.nodup_append.mpr ⟨h.maxima_rise.imp Nat.ne_of_lt, h.minima_rise.imp Nat.ne_of_lt, ?_⟩
    rintro i hi k hk rfl
    exact not_valleyAt_of_peakAt ((h.maxima i).mp hi).2 ((h.minima i).mp hk).2
  refine ⟨?_, h.maxima_rise, h.minima_rise, fun i hi => ?_⟩
  · -- the statement's list is the accepted indices as integers
    rw [bind_pure_comp]
    exact List.pairwise_map.mpr <| hnodup.imp_of_mem fun hi hk hne => h.separated hi hk hne
  · have := h.accepted_lt i hi
    omega

end Sys2Proof.Machine
end

section
/-! PROOFS. The mode of a level: the support of a candidate, the choice of the raw mode, and the refinement of a level's
candidates (41_pitch_detector.md R94 to R99). -/

namespace Sys2Proof.Machine

/-! ### The candidates' support -/

/-- A list's elements with their positions. -/
theorem zipIdx_eq_map_range (D : List Nat) : D.zipIdx = (List.range D.length).map fun i => (D.getD i 0, i) := by
  refine List.ext_getElem (by simp) fun i hi _ => ?_
  simp only [List.length_zipIdx] at hi
  simp [hi]

/-- How many other candidates lie within `md` of candidate `k` (R95). -/
def supportOf (md : Nat) (D : List Nat) (k : Nat) : Nat :=
  ((List.range D.length).filter fun m =>
    decide (m ≠ k) && decide (((D.getD m 0 : Int) - D.getD k 0).natAbs ≤ md)).length

/-- Candidate `k` passes the support check (R96). -/
abbrev PassesAt (md w : Nat) (D : List Nat) (k : Nat) : Prop := k < D.length ∧ w / D.getD k 0 < 4 * supportOf md D k

theorem supportCount_eq_supportOf (md : Nat) (D : List Nat) (k : Nat) :
    supportCount md D k (D.getD k 0) = supportOf md D k := by
  rw [supportCount, zipIdx_eq_map_range, List.filter_map, List.length_map, supportOf]
  refine congrArg List.length (List.filter_congr fun m _ => ?_)
  simp only [Function.comp, near, bne, decide_not]
  rfl

theorem PassesAt.support_pos {md w : Nat} {D : List Nat} {k : Nat} (h : PassesAt md w D k) : 0 < supportOf md D k := by
  have := (Nat.zero_le _).trans_lt h.2
  omega

/-! ### The choice of the raw mode -/

/-- Of the first `n` candidates, `first` is the first of the highest count among those that pass the check. -/
structure FirstBest (md w : Nat) (D : List Nat) (n first : Nat) : Prop where
  passes : PassesAt md w D first
  most : ∀ j < n, PassesAt md w D j → supportOf md D j ≤ supportOf md D first
  more : ∀ j < first, PassesAt md w D j → supportOf md D j < supportOf md D first

/-- Of the first `n` candidates, `last` is the one that R96 chooses among the equals of `first`: the last that the tie-break
favours, or `first` itself. -/
structure LastFavoured (md w : Nat) (D : List Nat) (isTie : Nat → Bool) (n first last : Nat) : Prop where
  first_le : first ≤ last
  lt : last < n
  passes : PassesAt md w D last
  equal : supportOf md D last = supportOf md D first
  favoured : last = first ∨ isTie (D.getD last 0) = true
  unfavoured : ∀ j < n, last < j → PassesAt md w D j → supportOf md D j = supportOf md D first →
    isTie (D.getD j 0) = false

/-- What the pass over the candidates carries after the first `n` of them: `(0, 0)` if none passes the check, else the
chosen candidate and its count (R96). -/
def ChosenBelow (md w : Nat) (D : List Nat) (isTie : Nat → Bool) (n : Nat) (b : Nat × Nat) : Prop :=
  (b = (0, 0) ∧ ∀ k < n, ¬PassesAt md w D k) ∨
    ∃ first last, FirstBest md w D n first ∧ LastFavoured md w D isTie n first last ∧
      b = (D.getD last 0, supportOf md D first)

section
variable {md w : Nat} {D : List Nat} {isTie : Nat → Bool} {n : Nat} {b : Nat × Nat}

/-- No candidate that passes the check has a higher count than the chosen one. -/
theorem ChosenBelow.support_le (h : ChosenBelow md w D isTie n b) :
    ∀ j < n, PassesAt md w D j → supportOf md D j ≤ b.2 := by
  rcases h with ⟨-, hnone⟩ | ⟨first, last, hfirst, -, rfl⟩
  · exact fun j hj hpass => absurd hpass (hnone j hj)
  · exact hfirst.most

/-- One position of the pass, its two updates as conditions on the candidate (R96). -/
theorem chooseStep_eq (hn : n < D.length) : chooseStep md w D isTie b (D.getD n 0, n) =
    if b.2 < supportOf md D n ∧ PassesAt md w D n then (D.getD n 0, supportOf md D n)
    else if supportOf md D n = b.2 ∧ PassesAt md w D n ∧ isTie (D.getD n 0) = true then (D.getD n 0, b.2)
    else b := by
  simp only [chooseStep, supportCount_eq_supportOf, supported, decide_eq_true_eq, PassesAt, hn, true_and]

/-- A candidate that passes the check with a higher count than all before it is chosen. -/
theorem ChosenBelow.step_more (h : ChosenBelow md w D isTie n b) (hmore : b.2 < supportOf md D n)
    (hpass : PassesAt md w D n) : ChosenBelow md w D isTie (n + 1) (D.getD n 0, supportOf md D n) := by
  have hlt : ∀ j < n, PassesAt md w D j → supportOf md D j < supportOf md D n := fun j hj hj' =>
    (h.support_le j hj hj').trans_lt hmore
  refine .inr ⟨n, n, ⟨hpass, fun j hj hj' => ?_, hlt⟩, ⟨le_rfl, Nat.lt_succ_self n, hpass, rfl, .inl rfl,
    fun j hj hj' => absurd hj' (Nat.not_lt.mpr (Nat.le_of_lt_succ hj))⟩, rfl⟩
  rcases Nat.lt_succ_iff_lt_or_eq.mp hj with hj | rfl
  · exact (hlt j hj hj').le
  · exact le_rfl

/-- A candidate of the chosen one's count that the tie-break favours takes its place. -/
theorem ChosenBelow.step_tie (h : ChosenBelow md w D isTie n b) (hequal : supportOf md D n = b.2)
    (hpass : PassesAt md w D n) (htie : isTie (D.getD n 0) = true) :
    ChosenBelow md w D isTie (n + 1) (D.getD n 0, b.2) := by
  rcases h with ⟨rfl, -⟩ | ⟨first, last, hfirst, hlast, rfl⟩
  · exact absurd hequal hpass.support_pos.ne'
  · refine .inr ⟨first, n, { hfirst with most := fun j hj hj' => ?_ }, ⟨(hlast.first_le.trans_lt hlast.lt).le,
      Nat.lt_succ_self n, hpass, hequal, .inr htie, fun j hj hj' => absurd hj' (Nat.not_lt.mpr (Nat.le_of_lt_succ hj))⟩,
      rfl⟩
    rcases Nat.lt_succ_iff_lt_or_eq.mp hj with hj | rfl
    · exact hfirst.most j hj hj'
    · exact hequal.le

/-- Any other candidate leaves the choice as it was. -/
theorem ChosenBelow.step_keep (h : ChosenBelow md w D isTie n b) (hmore : ¬(b.2 < supportOf md D n ∧ PassesAt md w D n))
    (htie : ¬(supportOf md D n = b.2 ∧ PassesAt md w D n ∧ isTie (D.getD n 0) = true)) :
    ChosenBelow md w D isTie (n + 1) b := by
  rcases h with ⟨rfl, hnone⟩ | ⟨first, last, hfirst, hlast, rfl⟩
  · refine .inl ⟨rfl, fun k hk hpass => ?_⟩
    rcases Nat.lt_succ_iff_lt_or_eq.mp hk with hk | rfl
    · exact hnone k hk hpass
    · exact hmore ⟨hpass.support_pos, hpass⟩
  · refine .inr ⟨first, last, { hfirst with most := fun j hj hj' => ?_ },
      { hlast with lt := Nat.lt_succ_of_lt hlast.lt, unfavoured := fun j hj hlt hj' hequal => ?_ }, rfl⟩
    · rcases Nat.lt_succ_iff_lt_or_eq.mp hj with hj | rfl
      · exact hfirst.most j hj hj'
      · exact Nat.le_of_not_lt fun hlt => hmore ⟨hlt, hj'⟩
    · rcases Nat.lt_succ_iff_lt_or_eq.mp hj with hj | rfl
      · exact hlast.unfavoured j hj hlt hj' hequal
      · exact Bool.eq_false_iff.mpr fun hfav => htie ⟨hequal, hj', hfav⟩

theorem ChosenBelow.step (h : ChosenBelow md w D isTie n b) (hn : n < D.length) :
    ChosenBelow md w D isTie (n + 1) (chooseStep md w D isTie b (D.getD n 0, n)) := by
  rw [chooseStep_eq hn]
  split_ifs with hmore htie
  · exact h.step_more hmore.1 hmore.2
  · obtain ⟨hequal, hpass, hfav⟩ := htie
    exact h.step_tie hequal hpass hfav
  · exact h.step_keep hmore htie

/-- The pass over the first `n` candidates. -/
theorem foldl_chooseStep_chosenBelow : n ≤ D.length →
    ChosenBelow md w D isTie n (((List.range n).map fun i => (D.getD i 0, i)).foldl (chooseStep md w D isTie) (0, 0)) := by
  induction n with
  | zero => exact fun _ => .inl ⟨rfl, fun k hk => absurd hk (Nat.not_lt_zero k)⟩
  | succ n ih =>
    intro hn
    rw [List.range_succ, List.map_append, List.foldl_append]
    exact (ih (Nat.le_of_succ_le hn)).step hn

end

/-- The raw mode is the choice among all candidates. -/
theorem rawMode_chosen (md w : Nat) (D : List Nat) (isTie : Nat → Bool) :
    ∃ count, ChosenBelow md w D isTie D.length (rawMode md w D isTie, count) := by
  have h := foldl_chooseStep_chosenBelow (md := md) (w := w) (isTie := isTie) (le_refl D.length)
  rw [← zipIdx_eq_map_range] at h
  exact ⟨_, h⟩

/-- Settles O42: what the pass carries at its end. -/
theorem rawModeHasMostSupport : Obligations.RawModeHasMostSupport := by
  intro md w D isTie count passes
  have hlen : ∀ k, PassesAt md w D k → k < D.length := fun k h => h.1
  obtain ⟨_, ⟨hzero, hnone⟩ | ⟨first, last, hfirst, hlast, heq⟩⟩ := rawMode_chosen md w D isTie
  · exact .inl ⟨congrArg Prod.fst hzero, fun k hk => hnone k (hlen k hk) hk⟩
  · exact .inr ⟨first, last, ⟨hfirst.passes, fun j hj => hfirst.most j (hlen j hj) hj, hfirst.more⟩, hlast.first_le,
      ⟨hlast.passes, hlast.equal, congrArg Prod.fst heq⟩, hlast.favoured,
      fun j hlt hj => hlast.unfavoured j (hlen j hj) hlt hj⟩

/-! ### The state of a level -/

theorem gapsOf_eq_gaps (g : Nat) (idx : List Nat) : gapsOf g idx = gaps g idx := by
  refine List.ext_getElem (by simp [gapsOf, gaps]) fun i hi _ => ?_
  simp only [gapsOf, List.length_map, List.length_range] at hi
  have hfirst : i < idx.length := by omega
  have hsecond : i + g < idx.length := by omega
  simp [gapsOf, gaps, hfirst, hsecond, Nat.add_comm g i]

theorem candidates_eq_flatMap (maxIdx minIdx : List Nat) :
    candidates maxIdx minIdx = [1, 2, 3].flatMap fun g => gapsOf g maxIdx ++ gapsOf g minIdx := by
  simp [candidates, gapsOf_eq_gaps]

/-- The first difference of a window of at least two samples. -/
theorem firstDifference_eq : ∀ {xs : List Int}, 2 ≤ xs.length → firstDifference xs = xs.getD 1 0 - xs.getD 0 0
  | [], h | [_], h => by simp at h
  | _ :: _ :: _, _ => rfl

/-- The seed of the walk (R89). -/
theorem climbSeed_eq (p : Params) {frame aw : List Int} (hframe : 2 ≤ frame.length) (haw : 2 ≤ aw.length) :
    climbSeed p frame aw = climbOf
      (if p.climbSeed = .inputFrame then frame.getD 1 0 - frame.getD 0 0 else aw.getD 1 0 - aw.getD 0 0) := by
  unfold climbSeed
  cases p.climbSeed with
  | inputFrame => rw [if_pos rfl, firstDifference_eq hframe]
  | levelWindow => rw [if_neg (by decide), firstDifference_eq haw]

/-- The mode of a level in one condition (R94, R98). -/
theorem modeOf_eq (md w : Nat) (maxIdx minIdx : List Nat) (isTie : Nat → Bool) :
    let D := candidates maxIdx minIdx
    let best := rawMode md w D isTie
    let S := D.filter fun e => near md e best
    modeOf md w maxIdx minIdx isTie =
      if 2 ≤ maxIdx.length ∧ 2 ≤ minIdx.length ∧ best ≠ 0 then S.sum / S.length else 0 := by
  intro D best S
  by_cases hcount : 2 ≤ maxIdx.length ∧ 2 ≤ minIdx.length
  · rw [modeOf, if_pos hcount]
    by_cases hbest : best = 0
    · rw [if_neg fun ⟨_, _, hne⟩ => hne hbest]
      exact if_pos hbest
    · rw [if_pos ⟨hcount.1, hcount.2, hbest⟩]
      exact if_neg hbest
  · rw [modeOf, if_neg hcount, if_neg fun ⟨hmax, hmin, _⟩ => hcount ⟨hmax, hmin⟩]

/-- Settles O32: the walk's seed is `climbSeed_eq`'s, the candidates are `candidates_eq_flatMap`'s. -/
theorem levelModeIsTheRefinedRawMode : Obligations.LevelModeIsTheRefinedRawMode := by
  intro c l aw prev hframe haw md d0 seed w D best S
  have hwalk : walk ⟨minDist c.params c.fs l, c.mean, c.maxThr, c.minThr⟩ (climbSeed c.params c.frame aw) aw = w := by
    rw [climbSeed_eq c.params hframe haw]
    rfl
  have hD : candidates w.maxIdx w.minIdx = D := candidates_eq_flatMap _ _
  have hmode := modeOf_eq md aw.length w.maxIdx w.minIdx (tie c.params c.lastMode md prev)
  rw [hD] at hmode
  rw [levelState, hwalk]
  exact ⟨rfl, rfl, hmode⟩

end Sys2Proof.Machine
end

section
/-! PROOFS. A constant frame has no turning point at any level, so its estimate is pitchless (41_pitch_detector.md R103,
R104). -/

namespace Sys2Proof.Machine

theorem halve_constant {v : Int} : ∀ {xs : List Int}, (∀ x ∈ xs, x = v) → ∀ x ∈ halve xs, x = v
  | [], _ | [_], _ => by simp [halve]
  | a :: b :: rest, h => by
    simp only [List.forall_mem_cons] at h
    obtain ⟨rfl, rfl, hrest⟩ := h
    simp only [halve, List.forall_mem_cons]
    exact ⟨by omega, halve_constant hrest⟩

theorem halve_iterate_constant {v : Int} (l : Nat) {xs : List Int} (h : ∀ x ∈ xs, x = v) : ∀ x ∈ halve^[l] xs, x = v := by
  induction l with
  | zero => exact h
  | succ l ih =>
    rw [Function.iterate_succ_apply']
    exact halve_constant ih

/-- A window without a fall has no maximum. -/
theorem walk_maxIdx_of_constant (c : WalkLimits) (seed : Climb) {v : Int} {aw : List Int} (h : ∀ x ∈ aw, x = v) :
    (walk c seed aw).maxIdx = [] := by
  refine List.eq_nil_iff_forall_not_mem.mpr fun j hj => ?_
  obtain ⟨hlt, -, hfall, -⟩ := (armedTurningPointsAreAccepted c seed aw j).1.mp hj
  have hsample {i : Nat} (hi : i < aw.length) : aw.getD i 0 = v := by
    rw [List.getD_eq_getElem _ _ hi]
    exact h _ (List.getElem_mem hi)
  refine lt_irrefl v ?_
  calc v = aw.getD (j + 1) 0 := (hsample hlt).symm
    _ < aw.getD j 0 := hfall
    _ = v := hsample (Nat.lt_of_succ_lt hlt)

/-- The levels of a constant frame have no maxima. -/
theorem levelAt_nMax_of_constant {c : Call} {v : Int} (h : ∀ x ∈ c.frame, x = v) (l : Nat) : (levelAt c l).nMax = 0 := by
  have hwindow : ∀ x ∈ halve (halve^[l] c.frame), x = v := halve_constant (halve_iterate_constant l h)
  rw [← levelState_eq_levelAt]
  simp only [levelState, walk_maxIdx_of_constant _ _ hwindow, List.length_nil]

/-- Settles O43: no two levels agree, because an agreement needs two maxima. -/
theorem constantFrameIsPitchless : Obligations.ConstantFrameIsPitchless := by
  intro s v hf hcfg hlo hhi hconst
  refine exec_detEst_of_pitchless ⟨hf, hcfg, hlo, hhi⟩ (scanOf_eq_iff.mpr fun k _ hagree => ?_)
  have hframe : ∀ x ∈ (callAt s.arg0.toNat s).frame, x = v := by
    simpa [callAt, callOf, frameSamples] using hconst
  obtain ⟨hmax, -⟩ := hagree
  rw [levelAt_nMax_of_constant hframe k] at hmax
  omega

end Sys2Proof.Machine
end

section
/-! PROOFS. The frequency of a confirmed pitch: a division by a power of two is exact while the quotient stays normalised, so
the two divisions round once (41_pitch_detector.md R101). -/

namespace Sys2Proof.Machine

/-! ### Rounding and factors -/

/-- A factor of both sides does not change a rounding. -/
theorem roundHalfEven_mul_mul {k : Nat} (n d : Nat) (hk : 0 < k) : roundHalfEven (k * n) (k * d) = roundHalfEven n d := by
  have hlt : k * d < 2 * (k * (n % d)) ↔ d < 2 * (n % d) := by
    rw [Nat.mul_left_comm]
    exact Nat.mul_lt_mul_left hk
  have heq : 2 * (k * (n % d)) = k * d ↔ 2 * (n % d) = d := by
    rw [Nat.mul_left_comm]
    exact Nat.mul_right_inj hk.ne'
  simp only [roundHalfEven, Nat.mul_div_mul_left n d hk, Nat.mul_mod_mul_left, hlt, heq]

theorem roundMag_mul_mul {k : Nat} (a b : Nat) (hk : 0 < k) : roundMag (k * a) (k * b) = roundMag a b := by
  have hulp : ulpShift (k * a) (k * b) = ulpShift a b := by rw [ulpShift, Nat.mul_div_mul_left a b hk, ulpShift]
  rw [roundMag, hulp, Nat.mul_assoc, roundHalfEven_mul_mul a _ hk, roundMag]

theorem roundMag_pos {a b : Nat} (h : ulpShift a b ≠ 0) : 0 < roundMag a b := by
  rw [roundMag_eq_min]
  omega

/-! ### Division by a power of two -/

/-- A divisor `2 ^ l` lowers the unit of a quotient by `l` places, down to the lowest. -/
theorem ulpShift_mul_two_pow (a b l : Nat) : ulpShift a (b * 2 ^ l) = ulpShift a b - l := by
  simp only [ulpShift, ← Nat.div_div_eq_div_mul, Nat.log2_eq_log_two, Nat.log_div_base_pow]
  omega

/-- A rounded quotient divided by `2 ^ l` is the quotient by both divisors rounded once, if the unit of the first quotient
lies more than `l` places above the lowest: the significand is the same. -/
theorem roundMag_patternMag_two_pow {a b l : Nat} (hl : l < ulpShift a b) (hfin : roundMag a b < 0x7F800000) :
    roundMag (patternMag (roundMag a b)) (2 ^ l) = roundMag a (b * 2 ^ l) := by
  obtain ⟨hle, hnorm⟩ := isSignificand_rounded a b
  have hpattern := roundMag_eq_of_lt hfin
  -- the exponent field that the division leaves over the same significand
  obtain ⟨e, he⟩ : ∃ e, ulpShift a b = l + e := ⟨_, (Nat.add_sub_cancel' hl.le).symm⟩
  have hsig : IsSignificand e (roundedSignificand a b) := ⟨hle, .inr (hnorm.resolve_left (by omega))⟩
  have hmag : patternMag (roundMag a b) = 2 ^ l * patternMag (2 ^ 23 * e + roundedSignificand a b) := by
    rw [patternMag_roundMag hfin, patternMag_add hsig, he, Nat.pow_add, Nat.mul_assoc]
  have hsame : roundedSignificand a (b * 2 ^ l) = roundedSignificand a b := by
    rw [roundedSignificand, ulpShift_mul_two_pow, Nat.mul_assoc, ← Nat.pow_add, Nat.add_sub_cancel' hl.le,
      roundedSignificand]
  have honce : roundMag a (b * 2 ^ l) = 2 ^ 23 * e + roundedSignificand a b := by
    rw [roundMag_eq_min, hsame, ulpShift_mul_two_pow]
    omega
  calc roundMag (patternMag (roundMag a b)) (2 ^ l)
      = roundMag (2 ^ l * patternMag (2 ^ 23 * e + roundedSignificand a b)) (2 ^ l * 1) := by rw [hmag, Nat.mul_one]
    _ = 2 ^ 23 * e + roundedSignificand a b := by
      rw [roundMag_mul_mul _ _ (Nat.two_pow_pos l), roundMag_patternMag (by omega)]
    _ = roundMag a (b * 2 ^ l) := honce.symm

/-! ### Frequencies -/

/-- The quotient of two natural numbers of at most 24 bits is their exact quotient rounded once. -/
theorem div_ofNat {m n : Nat} (hm : 0 < m ∧ m ≤ 2 ^ 24) (hn : 0 < n ∧ n ≤ 2 ^ 24) :
    roundMag (2 ^ 149 * m) n < 0x7F800000 ∧
      F32.div (F32.ofNat m) (F32.ofNat n) = .finite false (patternMag (roundMag (2 ^ 149 * m) n)) := by
  have hfin : roundMag (2 ^ 149 * m) n < 0x7F800000 := by
    have hne := mt (roundMag_eq_inf_iff (2 ^ 149 * m) hn.1).mp (by omega)
    have := roundMag_le (2 ^ 149 * m) n
    omega
  refine ⟨hfin, ?_⟩
  rw [ofNat_eq_finite hm.1 hm.2, ofNat_eq_finite hn.1 hn.2, F32.div, if_neg (Nat.mul_pos (by norm_num) hn.1).ne', F32.round,
    roundMag_mul_mul _ _ (by norm_num)]
  exact ofBits_signedWord false hfin

/-- The unit of a frequency's quotient lies far above the lowest. -/
theorem le_ulpShift_rate {fs pm : Nat} (hfs : 1 ≤ fs) (hpm : 0 < pm ∧ pm < 2 ^ 16) : 110 ≤ ulpShift (2 ^ 149 * fs) pm := by
  have hquot : 2 ^ 133 ≤ 2 ^ 149 * fs / pm := by
    rw [Nat.le_div_iff_mul_le hpm.1]
    omega
  have hlog : 133 ≤ (2 ^ 149 * fs / pm).log2 := (Nat.le_log2 (Nat.pos_of_ne_zero (by omega)).ne').mpr hquot
  unfold ulpShift
  omega

theorem signedWord_toNat {m : Nat} (h : m ≤ 0x7F800000) : (signedWord false m).toNat = m := by
  simp only [signedWord, if_neg Bool.false_ne_true, Nat.zero_add, BitVec.toNat_ofNat]
  omega

/-- The two divisions round once (R101). -/
theorem freqOf_eq_signedWord {fs pm l : Nat} (hfs : 1 ≤ fs ∧ fs ≤ 2 ^ 24) (hpm : 0 < pm ∧ pm < 2 ^ 16) (hl : l < 16) :
    freqOf fs pm l = signedWord false (roundMag (2 ^ 149 * fs) (pm * 2 ^ l)) := by
  obtain ⟨hfin, hdiv⟩ := div_ofNat hfs ⟨hpm.1, by omega⟩
  have hulp := le_ulpShift_rate hfs.1 hpm
  rw [freqOf, hdiv, ofNat_eq_finite (Nat.two_pow_pos l) (Nat.pow_le_pow_right (by omega) (by omega)),
    div_finite_toBits _ _ _ (by positivity), roundMag_mul_mul _ _ (by norm_num),
    roundMag_patternMag_two_pow (by omega) hfin]
  rfl

/-- Settles O34: one rounding is `freqOf_eq_signedWord`, and a quotient whose unit is above the lowest is not 0. -/
theorem frequencyIsRoundedOnce : Obligations.FrequencyIsRoundedOnce := by
  intro fs pm l hfs hfs' hpm hpm' hl
  have hword := freqOf_eq_signedWord ⟨hfs, hfs'⟩ ⟨hpm, hpm'⟩ hl
  have hfreq : FreqWord (freqOf fs pm l) := freqWord_freqOf ⟨hfs, hfs'⟩ ⟨hpm, by omega⟩ (by omega)
  have hpos : 0 < (freqOf fs pm l).toNat := by
    have hulp := le_ulpShift_rate hfs ⟨hpm, hpm'⟩
    have hround : 0 < roundMag (2 ^ 149 * fs) (pm * 2 ^ l) := roundMag_pos (by rw [ulpShift_mul_two_pow]; omega)
    rwa [hword, signedWord_toNat (roundMag_le _ _)]
  refine ⟨rfl, hword.trans ?_, hpos, hfreq⟩
  rw [signedWord, if_neg Bool.false_ne_true, Nat.zero_add]

end Sys2Proof.Machine
end

section
/-! PROOFS. The median of the ring: the words of finite numbers that are not negative have one place each in the numeric
order, `sortOrdered` is an insertion sort by that order, and a sorted list has few words below or above its `i`-th
(42_smoothing.md R105). -/

namespace Sys2Proof.Machine

/-! ### The numeric order of frequencies -/

/-- A word of +0.0 or of a positive finite number is read by its layout (10_state.md R42). -/
theorem ofBits_of_freqWord {w : Word} (h : FreqWord w) : F32.ofBits w = .finite false (patternMag w.toNat) := by
  have hw : signedWord false w.toNat = w := by simp [signedWord]
  rw [← ofBits_signedWord false h, hw]

theorem orderKey_of_freqWord {w : Word} (h : FreqWord w) : orderKey w = patternMag w.toNat := by
  rw [orderKey, ofBits_of_freqWord h]
  rfl

theorem realOf_of_freqWord {w : Word} (h : FreqWord w) : realOf w = some ((patternMag w.toNat : ℚ) / 2 ^ 149) := by
  rw [realOf, ofBits_of_freqWord h]
  rfl

theorem realOf_eq_some_iff {w : Word} {q : ℚ} :
    realOf w = some q ↔ ∃ z : Int, F32.scaled (F32.ofBits w) = some z ∧ (z : ℚ) / 2 ^ 149 = q := by
  unfold realOf
  cases F32.scaled (F32.ofBits w) <;> simp

/-- The order's key is the real value in units of 2^-149. -/
theorem valueOf_of_freqWord {w : Word} (h : FreqWord w) : valueOf w = (orderKey w : ℚ) / 2 ^ 149 := by
  rw [valueOf, realOf_of_freqWord h, orderKey_of_freqWord h, Int.cast_natCast, Option.getD_some]

theorem valueOf_lt_iff {v w : Word} (hv : FreqWord v) (hw : FreqWord w) :
    valueOf v < valueOf w ↔ orderKey v < orderKey w := by
  rw [valueOf_of_freqWord hv, valueOf_of_freqWord hw, div_lt_div_iff_of_pos_right (by positivity), Int.cast_lt]

/-- The order is total on frequencies: no two words stand for one number (R105). -/
theorem orderKey_injOn : Set.InjOn orderKey {w | FreqWord w} := by
  intro v hv w hw h
  rw [orderKey_of_freqWord hv, orderKey_of_freqWord hw, Nat.cast_inj] at h
  exact BitVec.eq_of_toNat_eq (patternMag_strictMono.injective h)

/-! ### Sorting -/

/-- `v` is not above `w` in numeric order. -/
abbrev OrderedBefore : Word → Word → Prop := orderKey ⁻¹'o (· ≤ ·)

theorem insertOrdered_eq (w : Word) (ws : List Word) : insertOrdered w ws = ws.orderedInsert OrderedBefore w := by
  induction ws with
  | nil => rfl
  | cons v vs ih => simp only [insertOrdered, List.orderedInsert_cons, ih, Order.Preimage]

theorem sortOrdered_eq (ws : List Word) : sortOrdered ws = ws.insertionSort OrderedBefore := by
  induction ws with
  | nil => rfl
  | cons w ws ih => rw [sortOrdered, ih, insertOrdered_eq, List.insertionSort_cons]

theorem sortOrdered_pairwise (ws : List Word) : (sortOrdered ws).Pairwise OrderedBefore := by
  rw [sortOrdered_eq]
  exact List.pairwise_insertionSort _ ws

theorem sortOrdered_perm (ws : List Word) : (sortOrdered ws).Perm ws := by
  rw [sortOrdered_eq]
  exact List.perm_insertionSort _ ws

/-- Two lists of the same frequencies sort alike. -/
theorem sortOrdered_congr {vs ws : List Word} (hfreq : ∀ w ∈ ws, FreqWord w) (h : vs.Perm ws) :
    sortOrdered vs = sortOrdered ws := by
  refine List.Perm.eq_of_pairwise (fun a b ha hb hab hba => ?_) (sortOrdered_pairwise vs) (sortOrdered_pairwise ws)
    ((sortOrdered_perm vs).trans (h.trans (sortOrdered_perm ws).symm))
  have ha' : FreqWord a := hfreq a (h.subset ((sortOrdered_perm vs).subset ha))
  have hb' : FreqWord b := hfreq b ((sortOrdered_perm ws).subset hb)
  exact orderKey_injOn ha' hb' (le_antisymm hab hba)

/-! ### Positions in a sorted list -/

/-- The words below the `i`-th word of a sorted list stand before it. -/
theorem countP_below_le {ws : List Word} (h : ws.Pairwise OrderedBefore) {i : Nat} (hi : i < ws.length) :
    ws.countP (fun w => decide (orderKey w < orderKey ws[i])) ≤ i := by
  have hrest : (ws.drop i).countP (fun w => decide (orderKey w < orderKey ws[i])) = 0 := by
    have hdrop := h.sublist (List.drop_sublist i ws)
    rw [List.drop_eq_getElem_cons hi] at hdrop ⊢
    simp only [List.countP_eq_zero, List.forall_mem_cons, decide_eq_true_eq, not_lt]
    exact ⟨le_rfl, fun _ => List.rel_of_pairwise_cons hdrop⟩
  calc ws.countP (fun w => decide (orderKey w < orderKey ws[i]))
      = (ws.take i).countP (fun w => decide (orderKey w < orderKey ws[i])) := by
        rw [← Nat.add_zero (List.countP _ (ws.take i)), ← hrest, ← List.countP_append, List.take_append_drop]
    _ ≤ (ws.take i).length := List.countP_le_length
    _ ≤ i := List.length_take_le i ws

/-- The words above the `i`-th word of a sorted list stand after it. -/
theorem countP_above_le {ws : List Word} (h : ws.Pairwise OrderedBefore) {i : Nat} (hi : i < ws.length) :
    ws.countP (fun w => decide (orderKey ws[i] < orderKey w)) ≤ ws.length - (i + 1) := by
  have hfirst : (ws.take (i + 1)).countP (fun w => decide (orderKey ws[i] < orderKey w)) = 0 := by
    have htake := h.sublist (List.take_sublist (i + 1) ws)
    rw [← List.take_append_getElem hi, List.pairwise_append] at htake
    obtain ⟨-, -, hlast⟩ := htake
    simp only [← List.take_append_getElem hi, List.countP_eq_zero, List.mem_append, List.mem_singleton, decide_eq_true_eq,
      not_lt]
    rintro w (hw | rfl)
    · exact hlast w hw _ (List.mem_singleton_self _)
    · exact le_rfl
  calc ws.countP (fun w => decide (orderKey ws[i] < orderKey w))
      = (ws.drop (i + 1)).countP (fun w => decide (orderKey ws[i] < orderKey w)) := by
        rw [← Nat.zero_add (List.countP _ (ws.drop (i + 1))), ← hfirst, ← List.countP_append, List.take_append_drop]
    _ ≤ (ws.drop (i + 1)).length := List.countP_le_length
    _ = ws.length - (i + 1) := List.length_drop

/-! ### The median -/

theorem length_sortOrdered_ring (r : Ring) : (sortOrdered r.toList).length = 5 := (sortOrdered_perm r.toList).length_eq

theorem median5_eq_getElem (r : Ring) :
    median5 r = (sortOrdered r.toList)[2]'(by rw [length_sortOrdered_ring]; omega) :=
  List.getD_eq_getElem _ _ _

theorem median5_mem (r : Ring) : median5 r ∈ r.toList := by
  rw [median5_eq_getElem]
  exact (sortOrdered_perm r.toList).subset (List.getElem_mem _)

/-- Settles O46: the slots are counted in the sorted list, which a reordering of the ring does not change. -/
theorem medianIsThirdSmallest : Obligations.MedianIsThirdSmallest := by
  intro r hfreq
  have hmedian : FreqWord (median5 r) := hfreq _ (median5_mem r)
  have hsorted := sortOrdered_pairwise r.toList
  have hperm := sortOrdered_perm r.toList
  have hlength := length_sortOrdered_ring r
  refine ⟨median5_mem r, ?_, ?_, fun q hq => ?_⟩
  · calc r.toList.countP (fun w => decide (valueOf w < valueOf (median5 r)))
        = r.toList.countP (fun w => decide (orderKey w < orderKey (median5 r))) :=
          List.countP_congr fun w hw => by simp only [valueOf_lt_iff (hfreq w hw) hmedian]
      _ = (sortOrdered r.toList).countP (fun w => decide (orderKey w < orderKey (median5 r))) :=
          (hperm.countP_eq _).symm
      _ ≤ 2 := by
          rw [median5_eq_getElem]
          exact countP_below_le hsorted _
  · calc r.toList.countP (fun w => decide (valueOf (median5 r) < valueOf w))
        = r.toList.countP (fun w => decide (orderKey (median5 r) < orderKey w)) :=
          List.countP_congr fun w hw => by simp only [valueOf_lt_iff hmedian (hfreq w hw)]
      _ = (sortOrdered r.toList).countP (fun w => decide (orderKey (median5 r) < orderKey w)) :=
          (hperm.countP_eq _).symm
      _ ≤ (sortOrdered r.toList).length - (2 + 1) := by
          rw [median5_eq_getElem]
          exact countP_above_le hsorted _
      _ = 2 := by rw [hlength]
  · rw [median5, sortOrdered_congr hfreq hq, median5]

end Sys2Proof.Machine
end

section
/-! PROOFS. The smoothing policies: each runs one core estimate behind DET_EST's checks and computes RES from the state that
the estimate left (42_smoothing.md R106 to R109). -/

namespace Sys2Proof.Machine

/-! ### What the policies share -/

/-- A policy whose checks fail raises the fault that DET_EST raises (41_pitch_detector.md R81). -/
theorem exec_eq_exec_detEst_of_check_fails {i : Instr} (hi : i ∈ estimateCommands) {s : State}
    (hf : s.status.fault = false)
    (hbad : s.status.detCfg = false ∨ s.arg0.toNat < 1 ∨ 2 ^ 24 < s.arg0.toNat) : exec i s = exec .detEst s := by
  obtain ⟨c, hc⟩ : ∃ c, estimateCheck s = some c := by
    refine Option.ne_none_iff_exists'.mp fun hnone => ?_
    obtain ⟨hcfg, hlo, hhi⟩ := estimateCheck_eq_none.mp hnone
    rcases hbad with hno | hrate
    · exact absurd hcfg (by simp [hno])
    · omega
  rw [exec_of_estimateCheck_fails hi hf hc, exec_of_estimateCheck_fails (by decide) hf hc]

theorem DetEstRuns.check {s : State} (h : DetEstRuns s) : estimateCheck s = none :=
  estimateCheck_eq_none.mpr ⟨h.configured, h.rate_pos, h.rate_le⟩

section
variable {s : State}

theorem exec_detEstMed (h : DetEstRuns s) :
    exec .detEstMed s =
      .next ((estimate s.arg0.toNat s).2.setRes (median5 (estimate s.arg0.toNat s).2.ring)) := by
  rw [exec, execDetEstMed, estimateCommand_of_check h.not_faulted h.check]

theorem exec_detEstLast (h : DetEstRuns s) :
    exec .detEstLast s = .next ((estimate s.arg0.toNat s).2.setRes (estimate s.arg0.toNat s).2.lastFreq) := by
  rw [exec, execDetEstLast, estimateCommand_of_check h.not_faulted h.check]

/-- The test reads the held value and the tolerance of the state before the estimate, which writes neither. -/
theorem exec_detEstOct (h : DetEstRuns s) :
    exec .detEstOct s = .next
      (if octaveJump (estimate s.arg0.toNat s).1 s.heldFreq s.params.octaveTol then
        (estimate s.arg0.toNat s).2.setRes s.heldFreq
      else ((estimate s.arg0.toNat s).2.setHeld (estimate s.arg0.toNat s).1).setRes (estimate s.arg0.toNat s).1) := by
  obtain ⟨-, -, -, -, -, hheld, hparams, -⟩ := estimate_frame s.arg0.toNat s
  rw [exec, execDetEstOct, estimateCommand_of_check h.not_faulted h.check, octavePolicy, hheld, hparams]

theorem exec_detEstRob (h : DetEstRuns s) :
    exec .detEstRob s = .next ((estimate s.arg0.toNat s).2.setRes
      (robustResult (estimate s.arg0.toNat s).1 (estimate s.arg0.toNat s).2)) := by
  rw [exec, execDetEstRob, estimateCommand_of_check h.not_faulted h.check]

end

/-! ### The median and the last pitch -/

/-- Settles O47: both commands make the same estimate, and RES is all that their policies write. -/
theorem medianPolicyReportsTheMedian : Obligations.MedianPolicyReportsTheMedian := by
  refine ⟨rfl, fun _ => exec_eq_exec_detEst_of_check_fails (by decide), fun s hf hcfg hlo hhi => ?_⟩
  have hruns : DetEstRuns s := ⟨hf, hcfg, hlo, hhi⟩
  exact ⟨_, exec_detEst hruns, exec_detEstMed hruns⟩

/-- LAST_FREQ takes the frequency that an estimate confirms and keeps its value in a pitchless one
(41_pitch_detector.md R100, R103). -/
theorem estimate_lastFreq (fs : Nat) (s : State) :
    ((estimate fs s).2.status.conf = true → (estimate fs s).2.lastFreq = (estimate fs s).1) ∧
      ((estimate fs s).2.status.conf = false → (estimate fs s).2.lastFreq = s.lastFreq) := by
  cases h : scanOf fs s with
  | confirmed pm l => simp [estimate_confirmed h]
  | pitchless => simp [estimate_pitchless h]

/-- Settles O48: what LAST_FREQ holds after the estimate is `estimate_lastFreq`. -/
theorem lastPolicyHoldsTheLastPitch : Obligations.LastPolicyHoldsTheLastPitch := by
  refine ⟨rfl, fun _ => exec_eq_exec_detEst_of_check_fails (by decide), fun s hf hcfg hlo hhi => ?_⟩
  have hruns : DetEstRuns s := ⟨hf, hcfg, hlo, hhi⟩
  exact ⟨_, exec_detEst hruns, exec_detEstLast hruns, estimate_lastFreq s.arg0.toNat s⟩

/-! ### The octave-invariant policy -/

/-- A difference `d` in units of 2^-150 against a tolerance `z` in units of 2^-149. -/
theorem natAbs_le_two_mul_iff (d z : Int) : (d.natAbs : Int) ≤ 2 * z ↔ |(d : ℚ) / 2 ^ 150| ≤ (z : ℚ) / 2 ^ 149 := by
  have hunit : (z : ℚ) / 2 ^ 149 = ((2 * z : Int) : ℚ) / 2 ^ 150 := by
    push_cast
    ring
  rw [hunit, abs_div, abs_of_pos (by positivity : (0 : ℚ) < 2 ^ 150), div_le_div_iff_of_pos_right (by positivity),
    ← Int.cast_abs, Int.cast_le, Int.abs_eq_natAbs]

/-- R108's test compares the exact real values. -/
theorem octaveJump_eq_true_iff {new old tol : Word} {a b t : ℚ} (hnew : realOf new = some a) (hold : realOf old = some b)
    (htol : realOf tol = some t) : octaveJump new old tol = true ↔ |a - 2 * b| ≤ t ∨ |a - b / 2| ≤ t := by
  obtain ⟨x, hx, rfl⟩ := realOf_eq_some_iff.mp hnew
  obtain ⟨y, hy, rfl⟩ := realOf_eq_some_iff.mp hold
  obtain ⟨z, hz, rfl⟩ := realOf_eq_some_iff.mp htol
  have hdouble : (x : ℚ) / 2 ^ 149 - 2 * (y / 2 ^ 149) = ((2 * x - 4 * y : Int) : ℚ) / 2 ^ 150 := by
    push_cast
    ring
  have hhalf : (x : ℚ) / 2 ^ 149 - y / 2 ^ 149 / 2 = ((2 * x - y : Int) : ℚ) / 2 ^ 150 := by
    push_cast
    ring
  rw [hdouble, hhalf, ← natAbs_le_two_mul_iff, ← natAbs_le_two_mul_iff]
  simp only [octaveJump, f32, hx, hy, hz, Bool.or_eq_true, decide_eq_true_eq]

/-- A legal OCTAVE_TOL is a finite number (00_scope.md R7); -0.0 is one (notes/assumptions/14.md). -/
theorem exists_realOf_of_finiteNonneg {w : Word} (h : finiteNonneg w = true) : ∃ q, realOf w = some q := by
  simp only [finiteNonneg, Bool.or_eq_true, decide_eq_true_eq, beq_iff_eq] at h
  rcases h with hpos | hneg
  · exact ⟨_, realOf_of_freqWord hpos⟩
  · have hw : w = signedWord true 0 := BitVec.eq_of_toNat_eq hneg
    rw [realOf, hw, ofBits_signedWord true (by norm_num)]
    exact ⟨_, rfl⟩

theorem octaveTol_of_legal {p : Params} (h : p.legal = true) : finiteNonneg p.octaveTol = true := by
  simp only [Params.legal, Bool.and_eq_true] at h
  exact h.2

theorem Inv.freqWord_heldFreq {s : State} (h : Inv s) : FreqWord s.heldFreq := h.freqs _ (by simp)

/-- Settles O49: in a state of the invariant all three numbers of the test are finite, and the test then compares them as
R108 does. -/
theorem octavePolicySuppressesJumps : Obligations.OctavePolicySuppressesJumps := by
  refine ⟨rfl, fun _ => exec_eq_exec_detEst_of_check_fails (by decide), fun s hinv hf hcfg hlo hhi => ?_⟩
  have hruns : DetEstRuns s := ⟨hf, hcfg, hlo, hhi⟩
  have hnew := realOf_of_freqWord (hinv.estimate hruns.check).1
  have hold := realOf_of_freqWord hinv.freqWord_heldFreq
  obtain ⟨tol, htol⟩ := exists_realOf_of_finiteNonneg (octaveTol_of_legal hinv.params_legal)
  refine ⟨_, _, _, tol, exec_detEst hruns, hnew, hold, htol, fun hjump => ?_, fun hjump => ?_⟩
  · rw [exec_detEstOct hruns, if_pos ((octaveJump_eq_true_iff hnew hold htol).mpr hjump)]
    rfl
  · rw [exec_detEstOct hruns, if_neg (mt (octaveJump_eq_true_iff hnew hold htol).mp hjump)]
    rfl

/-! ### The robust policy -/

/-- Only one word of a frequency stands for zero. -/
theorem isZero_f32 {w : Word} (h : FreqWord w) : F32.isZero (f32 w) = decide (w = 0) := by
  have hzero : patternMag 0 = 0 := rfl
  rw [f32, ofBits_of_freqWord h, F32.isZero, Bool.eq_iff_iff, beq_iff_eq, decide_eq_true_iff, ← hzero,
    patternMag_strictMono.injective.eq_iff]
  exact BitVec.toNat_inj (y := 0)

/-- R109's closed form: the raw value matters only where the median is zero. -/
theorem robustResult_eq {raw : Word} {t : State} (hraw : FreqWord raw) (hmedian : FreqWord (median5 t.ring)) :
    robustResult raw t =
      if median5 t.ring ≠ 0 then median5 t.ring else if raw = 0 then t.lastFreq else 0 := by
  simp only [robustResult, isZero_f32 hraw, isZero_f32 hmedian, Bool.not_eq_true', decide_eq_false_iff_not]
  by_cases hmedian0 : median5 t.ring = 0
  · simp only [hmedian0, ne_eq, not_true_eq_false, if_false, ite_not]
  · simp only [hmedian0, ne_eq, not_false_eq_true, if_true, ite_self]

theorem Inv.freqWord_median5 {s : State} (h : Inv s) : FreqWord (median5 s.ring) :=
  h.freqs _ (List.mem_cons_of_mem _ (List.mem_cons_of_mem _ (median5_mem s.ring)))

/-- Settles O50: after the estimate the invariant still holds, so a word is zero exactly if its number is. -/
theorem robustPolicyHoldsOrSmooths : Obligations.RobustPolicyHoldsOrSmooths := by
  refine ⟨rfl, fun _ => exec_eq_exec_detEst_of_check_fails (by decide), fun s hinv hf hcfg hlo hhi => ?_⟩
  have hruns : DetEstRuns s := ⟨hf, hcfg, hlo, hhi⟩
  obtain ⟨hraw, hafter⟩ := hinv.estimate hruns.check
  have hexec := exec_detEstRob hruns
  rw [robustResult_eq hraw hafter.freqWord_median5] at hexec
  exact ⟨_, exec_detEst hruns, hexec⟩

end Sys2Proof.Machine
end

section
/-! PROOFS. The shifter's arithmetic and checks: the analysis shift of operands that the checks let pass, what equal pitches
give, SHF_CONFIG, and the faults of SHF_CORRECT in their order (43_pitch_shifter.md R110 to R114, R121). -/

namespace Sys2Proof.Machine

/-! ### The rounding of a quotient to a value -/

/-- A rounded quotient is finite, or infinity of its sign. -/
theorem round_cases (neg : Bool) (a b : Nat) :
    (roundMag a b < 0x7F800000 ∧ F32.round neg a b = .finite neg (patternMag (roundMag a b))) ∨
      F32.round neg a b = .inf neg := by
  rcases Nat.lt_or_eq_of_le (roundMag_le a b) with h | h
  · exact .inl ⟨h, ofBits_signedWord neg h⟩
  · right
    rw [F32.round, h]
    cases neg <;> decide

/-- A quotient of at least the smallest subnormal does not round to zero. -/
theorem roundMag_pos_of_le {a b : Nat} (hb : 0 < b) (h : b ≤ a) : 0 < roundMag a b := by
  by_cases hulp : ulpShift a b = 0
  · have hquot : 0 < a / b := Nat.div_pos h hb
    have hround := roundHalfEven_cases a b
    rw [roundMag, hulp, Nat.pow_zero, Nat.mul_one]
    omega
  · exact roundMag_pos hulp

theorem patternMag_pos {k : Nat} (h : 0 < k) : 0 < patternMag k := patternMag_strictMono.lt_iff_lt.mpr h

/-- The patterns of the positive finite values are those between +0.0's and infinity's. -/
theorem isPositive_ofBits_iff (w : Word) : (F32.ofBits w).isPositive = true ↔ PositiveWord w := by
  have hw := w.isLt
  by_cases hfreq : FreqWord w
  · have hzero : patternMag w.toNat ≠ 0 ↔ 0 < w.toNat := by
      rw [← Nat.pos_iff_ne_zero]
      exact patternMag_strictMono.lt_iff_lt (a := 0)
    rw [ofBits_of_freqWord hfreq, F32.isPositive, bne_iff_ne, hzero]
    exact ⟨fun h => ⟨h, hfreq⟩, And.left⟩
  · refine iff_of_false ?_ fun h => hfreq h.2
    rw [F32.ofBits]
    split_ifs with h1 h2 h3
    · simp [F32.isPositive]
    · simp [F32.isPositive]
    · rw [decide_eq_true (by omega)]
      simp [F32.isPositive]
    · rw [decide_eq_true (by omega)]
      simp [F32.isPositive]

/-- A positive finite value as its pattern's magnitude. -/
theorem ofBits_of_positiveWord {w : Word} (h : PositiveWord w) :
    ∃ m, 0 < m ∧ m < (2 ^ 25 - 1) * 2 ^ 252 ∧ F32.ofBits w = .finite false m :=
  ⟨_, patternMag_pos h.1, patternMag_lt_overflow h.2, ofBits_of_freqWord h.2⟩

/-! ### The analysis shift -/

/-- The period quotient is one rounding of an exact quotient of at least 2^-128. -/
theorem periodQuotient_cases {fs : Nat} {w : Word} (hfs : 1 ≤ fs ∧ fs ≤ 2 ^ 24) (hw : PositiveWord w) :
    (∃ m, 0 < m ∧ periodQuotient fs (F32.ofBits w) = .finite false m) ∨
      periodQuotient fs (F32.ofBits w) = .inf false := by
  obtain ⟨m, hpos, hlt, hm⟩ := ofBits_of_positiveWord hw
  have hround : periodQuotient fs (F32.ofBits w) = F32.round false (2 ^ 149 * (2 ^ 149 * fs)) m := by
    rw [periodQuotient, ofNat_eq_finite hfs.1 hfs.2, hm, F32.div, if_neg hpos.ne']
    rfl
  rw [hround]
  obtain ⟨-, h⟩ | h := round_cases false (2 ^ 149 * (2 ^ 149 * fs)) m
  · exact .inl ⟨_, patternMag_pos (roundMag_pos_of_le hpos (by omega)), h⟩
  · exact .inr h

theorem isFinite_periodQuotient_iff {fs : Nat} {w : Word} (hfs : 1 ≤ fs ∧ fs ≤ 2 ^ 24) (hw : PositiveWord w) :
    (periodQuotient fs (F32.ofBits w)).isFinite = true ↔ periodQuotient fs (F32.ofBits w) ≠ .inf false := by
  obtain ⟨m, -, h⟩ | h := periodQuotient_cases hfs hw
  · simp [h, F32.isFinite]
  · simp [h, F32.isFinite]

/-- The ceiling of a positive value is positive. -/
theorem analysisShift_pos {m : Nat} (h : 0 < m) : 1 ≤ analysisShift (.finite false m) := by
  have hs : F32.scaled (.finite false m) = some (m : Int) := rfl
  simp only [analysisShift, F32.ceil, hs]
  omega

/-- Settles O56: the quotient is positive, so the analysis shift is at least 1, and the rest are the checks' bounds. -/
theorem shiftParametersStayInRange : Obligations.ShiftParametersStayInRange := by
  intro s p hinv hcheck
  obtain ⟨hcfg, hlo, hhi, hfin, -, hquot, -, hs, hp, hl, -, hacc⟩ := shiftChecks_ok hcheck
  obtain ⟨-, -, hmax⟩ := ranges_of_legal hinv.params_legal
  obtain ⟨-, hn⟩ := hinv.shf_configured hcfg
  have hpos : 1 ≤ p.s := by
    rw [hs]
    obtain ⟨m, hm, h⟩ | h := periodQuotient_cases ⟨hlo, hhi⟩ ((isPositive_ofBits_iff _).mp hfin)
    · rw [f32, h]
      exact analysisShift_pos hm
    · rw [f32, h] at hquot
      cases hquot
  have hsh : p.sh = (p.s + 1) / 2 := congrArg Shift.sh hp
  have hlen : p.l = p.s + p.sh + 1 := by rw [hsh]; exact congrArg Shift.l hp
  have hk : p.k = s.shfN.toNat / p.s := congrArg Shift.k hp
  have hfits : p.k * p.s ≤ s.shfN.toNat := by rw [hk]; exact Nat.div_mul_le_self _ _
  refine ⟨hpos, by omega, by omega, hl, by omega, ?_, by omega, fun k hk' i hi => ⟨?_, ?_, ?_⟩⟩
  · rw [hk]
    exact Nat.div_pos (by omega) hpos
  · exact (pass_index_le_lastAccIndex hk' hi).trans_lt hacc
  · have hpass : (k + 1) * p.s ≤ p.k * p.s := Nat.mul_le_mul_right _ hk'
    rw [Nat.succ_mul] at hpass
    omega
  · rw [Nat.add_eq_zero_iff, Nat.mul_eq_zero, or_iff_left (by omega)]

/-! ### Equal pitches -/

/-- A natural number of at most 24 bits, 0 included, is a binary32 exactly. -/
theorem ofNat_eq_finite_of_le {n : Nat} (h : n ≤ 2 ^ 24) : F32.ofNat n = .finite false (2 ^ 149 * n) := by
  rcases Nat.eq_zero_or_pos n with rfl | hpos
  · rfl
  · exact ofNat_eq_finite hpos h

theorem one_eq_ofBits : F32.one = F32.ofBits 0x3F800000 := by decide +kernel

theorem scalingFactor_self {f : Word} (hf : PositiveWord f) : scalingFactor (F32.ofBits f) (F32.ofBits f) = F32.one := by
  obtain ⟨m, hpos, -, hm⟩ := ofBits_of_positiveWord hf
  have hsub : F32.sub (.finite false m) (.finite false m) = .finite false 0 := by
    simp [F32.sub, F32.neg, F32.add, F32.ofSum]
  have hdiv : F32.div (.finite false 0) (.finite false m) = .finite false 0 := by
    rw [F32.div, if_neg hpos.ne', F32.round, Nat.mul_zero, roundMag_zero m hpos]
    rfl
  have hadd : F32.add F32.one (.finite false 0) = F32.one := by decide +kernel
  rw [scalingFactor, hm, hsub, hdiv, hadd]

/-- The product with 1.0 is exact, and an integer rounds to itself. -/
theorem roundAway_shiftProduct_one {n : Nat} (h : n ≤ 2 ^ 24) : (shiftProduct n F32.one).roundAway = n := by
  have hexact : shiftProduct n F32.one = .finite false (2 ^ 149 * n) := by
    calc shiftProduct n F32.one = F32.round false (2 ^ 149 * (2 ^ 149 * n)) (2 ^ 149 * 1) := by
          rw [shiftProduct, F32.one, ofNat_eq_finite_of_le h, ofNat_eq_finite_of_le (by decide), Nat.mul_comm (2 ^ 149) (_ * n)]
          rfl
      _ = F32.ofNat n := by
          rw [F32.round, roundMag_mul_mul _ _ (Nat.two_pow_pos 149)]
          rfl
      _ = .finite false (2 ^ 149 * n) := ofNat_eq_finite_of_le h
  have hs : F32.scaled (.finite false (2 ^ 149 * n)) = some ((2 ^ 149 * n : Nat) : Int) := rfl
  simp only [hexact, F32.roundAway, hs]
  rw [if_pos (by omega)]
  omega

/-- Settles O57: an exact zero difference makes the scaling factor 1.0. -/
theorem equalPitchKeepsTheShift : Obligations.EqualPitchKeepsTheShift := by
  intro f sa hf hsa
  rw [scalingFactor_self hf]
  exact ⟨one_eq_ofBits, roundAway_shiftProduct_one (by omega)⟩

/-! ### SHF_CONFIG -/

/-- The bytes of a buffer's first `n` elements are one range. -/
theorem exists_byteOf_iff {b : Buf} {n a : Nat} :
    (∃ i < n, ByteOf b i a) ↔ bufBase b ≤ a ∧ a < bufBase b + 2 * n := by
  simp only [ByteOf, elemAddr]
  constructor
  · rintro ⟨i, hi, h⟩
    omega
  · intro h
    exact ⟨(a - bufBase b) / 2, by omega, by omega⟩

theorem byteAt_clearElems (b : Buf) (n : Nat) (m : Memory) (a : Nat) :
    (clearElems b n m).byteAt a = if ∃ i < n, ByteOf b i a then 0 else m.byteAt a := by
  simp only [clearElems, byteAt_clearRange, exists_byteOf_iff]

/-- A byte belongs to an element that SHF_CONFIG clears (43_pitch_shifter.md R110). -/
def ClearedByte (p : Params) (a : Nat) : Prop := ∃ b : Buf, b ≠ .frame ∧ ∃ i < b.length p, ByteOf b i a

theorem byteAt_clearShifterBuffers_of_cleared {p : Params} {a : Nat} (h : ClearedByte p a) (m : Memory) :
    (clearShifterBuffers p m).byteAt a = 0 := by
  obtain ⟨b, hb, hbyte⟩ := h
  simp only [clearShifterBuffers, byteAt_clearElems]
  cases b with
  | frame => exact absurd rfl hb
  | hist | acc | win =>
    simp only [Buf.length] at hbyte
    simp only [hbyte, if_true, ite_self]

theorem byteAt_clearShifterBuffers_of_not_cleared {p : Params} {a : Nat} (h : ¬ClearedByte p a) (m : Memory) :
    (clearShifterBuffers p m).byteAt a = m.byteAt a := by
  have hkeep {b : Buf} (hb : b ≠ .frame) : ¬∃ i < b.length p, ByteOf b i a := fun hbyte => h ⟨b, hb, hbyte⟩
  have hhist := hkeep (b := .hist) (by decide)
  have hacc := hkeep (b := .acc) (by decide)
  have hwin := hkeep (b := .win) (by decide)
  simp only [Buf.length] at hhist hacc hwin
  simp only [clearShifterBuffers, byteAt_clearElems, hhist, hacc, hwin, if_false]

/-- Settles O51: the length is the clamped one, and the three cleared ranges are exactly the elements of the three buffers. -/
theorem shfConfigClearsTheHistory : Obligations.ShfConfigClearsTheHistory := by
  refine ⟨rfl, fun s n hf hn => ?_⟩
  have hlen : clampedLength s.params (s32 s.arg0) = n := clampedLength_eq hn
  refine ⟨_, unlessFaulted_of_running hf, by rw [hlen]; rfl, fun b i hb hi => ?_, fun a ha => ?_⟩
  · have hzero {a : Nat} (ha : ByteOf b i a) : (clearShifterBuffers s.params s.mem).byteAt a = 0 :=
      byteAt_clearShifterBuffers_of_cleared ⟨b, hb, i, hi, ha⟩ _
    simp only [readElem, setRes_mem, setMem_mem, hzero (.inl rfl), hzero (.inr rfl)]
    rfl
  · exact byteAt_clearShifterBuffers_of_not_cleared (fun ⟨b, hb, i, hi, hbyte⟩ => ha b i hb hi hbyte) _

/-! ### The checks of SHF_CORRECT -/

theorem exec_shfCorrect_of_error {s : State} {c : Cause} (hf : s.status.fault = false) (h : shiftChecks s = .error c) :
    exec .shfCorrect s = .next (takeFault c s) := by
  rw [exec, execShfCorrect, unlessFaulted_of_running hf, h]

theorem exec_shfCorrect_of_ok {s : State} {p : Shift} (hf : s.status.fault = false) (h : shiftChecks s = .ok p) :
    exec .shfCorrect s = .next ((s.setMem (correctFrame s.shfN.toNat p s.mem)).setRes (halves p.ss p.s)) := by
  rw [exec, execShfCorrect, unlessFaulted_of_running hf, h]

/-- The pitch check of R114, on the words of the two pitches. -/
theorem badPitch_iff (v w : Word) :
    (!(f32 v).isPositive || !(f32 w).isPositive) = true ↔ ¬PositiveWord v ∨ ¬PositiveWord w := by
  rw [f32, f32, ← isPositive_ofBits_iff, ← isPositive_ofBits_iff]
  simp

/-- Settles O52: the checks are one chain of conditions; `hchain` is the chain after the conditions that do not apply. -/
theorem shfCorrectChecksInOrder : Obligations.ShfCorrectChecksInOrder := by
  intro s hf n fs fin fdes q sa sh l k x ss faulted
  refine ⟨fun hcfg => exec_shfCorrect_of_error hf (if_pos hcfg), fun hcfg => ?_⟩
  have hchain : shiftChecks s = _ := if_neg (ne_false_of_eq_true hcfg)
  refine ⟨fun hrate => exec_shfCorrect_of_error hf (hchain.trans (if_pos hrate)), fun hlo hhi => ?_⟩
  replace hchain := hchain.trans (if_neg (not_or.mpr ⟨hlo.not_gt, hhi.not_gt⟩))
  refine ⟨fun hpitch => exec_shfCorrect_of_error hf (hchain.trans (if_pos ((badPitch_iff _ _).mpr hpitch))),
    fun hfin hfdes => ?_⟩
  replace hchain := hchain.trans (if_neg (mt (badPitch_iff _ _).mp (by simp [hfin, hfdes])))
  have hwindow : (!q.isFinite || decide (n < l)) = true ↔ q = .inf false ∨ n < l := by
    rw [Bool.or_eq_true, decide_eq_true_iff, Bool.not_eq_true', ← Bool.not_eq_true]
    exact or_congr_left ((not_congr (isFinite_periodQuotient_iff ⟨hlo, hhi⟩ hfin)).trans not_not)
  refine ⟨fun hbad => exec_shfCorrect_of_error hf (hchain.trans (if_pos (hwindow.mpr hbad))), fun hq hl => ?_⟩
  replace hchain := hchain.trans (if_neg (mt hwindow.mp (not_or.mpr ⟨hq, hl.not_gt⟩)))
  have hrange : (!x.isFinite || decide (65535 < ss) || decide (2 * n ≤ (k - 1) * ss + sa + sh - 1)) = true ↔
      x.isFinite = false ∨ 65535 < ss ∨ 2 * n ≤ (k - 1) * ss + sa + sh - 1 := by
    simp [or_assoc]
  refine ⟨fun hbad => exec_shfCorrect_of_error hf (hchain.trans (if_pos (hrange.mpr hbad))), fun hx hss hacc => ?_⟩
  refine hchain.trans (if_neg (mt hrange.mp ?_))
  exact not_or.mpr ⟨ne_false_of_eq_true hx, not_or.mpr ⟨hss.not_gt, hacc.not_ge⟩⟩

end Sys2Proof.Machine
end

section
/-! PROOFS. The shifter's window and its passes: the ramp, the forced peak and the mirrored half for each length, and the
counted passes as R117's loop (43_pitch_shifter.md R116, R117). -/

namespace Sys2Proof.Machine

/-! ### The window -/

theorem windowHalf_odd (h : Nat) : windowHalf (2 * h + 1) = h := by
  rw [windowHalf, if_pos (by omega)]
  omega

theorem windowHalf_even (h : Nat) : windowHalf (2 * h) = h := by
  rw [windowHalf, if_neg (by omega)]
  omega

/-- A window sample is forced to the peak: the centre one, or for an even length the centre two. -/
def IsWindowPeak (l n : Nat) : Prop := n = windowHalf l ∨ (l % 2 = 0 ∧ n + 1 = windowHalf l)

theorem windowValue_peak {l n : Nat} (h : IsWindowPeak l n) : windowValue l n = 0x7FFF := if_pos h

theorem windowValue_ramp {l n : Nat} (hpeak : ¬IsWindowPeak l n) (h : n < windowHalf l) :
    windowValue l n = n * windowInc l := (if_neg hpeak).trans (if_pos h)

theorem windowValue_fall {l n : Nat} (hpeak : ¬IsWindowPeak l n) (h : ¬n < windowHalf l) :
    windowValue l n = (l - 1 - n) * windowInc l := (if_neg hpeak).trans (if_neg h)

theorem isWindowPeak_mirror {l n : Nat} (hn : n < l) : IsWindowPeak l (l - 1 - n) ↔ IsWindowPeak l n := by
  unfold IsWindowPeak windowHalf
  split_ifs <;> omega

/-- Off the peak, the mirror swaps the ramp and the falling half. -/
theorem mirror_lt_windowHalf_iff {l n : Nat} (hn : n < l) (hpeak : ¬IsWindowPeak l n) :
    l - 1 - n < windowHalf l ↔ ¬n < windowHalf l := by
  unfold IsWindowPeak windowHalf at *
  split_ifs at * <;> omega

theorem windowValue_mirror {l n : Nat} (hn : n < l) : windowValue l (l - 1 - n) = windowValue l n := by
  by_cases hpeak : IsWindowPeak l n
  · rw [windowValue_peak hpeak, windowValue_peak ((isWindowPeak_mirror hn).mpr hpeak)]
  have hmirror := mt (isWindowPeak_mirror hn).mp hpeak
  have hswap := mirror_lt_windowHalf_iff hn hpeak
  by_cases h : n < windowHalf l
  · rw [windowValue_ramp hpeak h, windowValue_fall hmirror fun h' => hswap.mp h' h, Nat.sub_sub_self (by omega)]
  · rw [windowValue_fall hpeak h, windowValue_ramp hmirror (hswap.mpr h)]

/-- The increment is a floored quotient, so the ramp stays below the peak. -/
theorem windowRamp_le {l n : Nat} (h : n < windowHalf l) : n * windowInc l ≤ 0x7FFF := by
  unfold windowInc
  split_ifs with hodd
  · calc n * (0x7FFF / windowHalf l) ≤ windowHalf l * (0x7FFF / windowHalf l) := Nat.mul_le_mul_right _ h.le
      _ ≤ 0x7FFF := Nat.mul_div_le _ _
  · have hn : 2 * n ≤ l - 1 := by
      rw [windowHalf, if_neg hodd] at h
      omega
    have htwice : 2 * (n * (2 * 0x7FFF / (l - 1))) ≤ 2 * 0x7FFF :=
      calc 2 * (n * (2 * 0x7FFF / (l - 1))) = 2 * n * (2 * 0x7FFF / (l - 1)) := (Nat.mul_assoc _ _ _).symm
        _ ≤ (l - 1) * (2 * 0x7FFF / (l - 1)) := Nat.mul_le_mul_right _ hn
        _ ≤ 2 * 0x7FFF := Nat.mul_div_le _ _
    omega

theorem windowValue_le {l n : Nat} (hn : n < l) : windowValue l n ≤ 0x7FFF := by
  by_cases hpeak : IsWindowPeak l n
  · exact (windowValue_peak hpeak).le
  by_cases h : n < windowHalf l
  · exact (windowValue_ramp hpeak h).trans_le (windowRamp_le h)
  · have hmirror := (mirror_lt_windowHalf_iff hn hpeak).mpr h
    rw [← windowValue_mirror hn, windowValue_ramp (mt (isWindowPeak_mirror hn).mp hpeak) hmirror]
    exact windowRamp_le hmirror

/-- Settles O58: off the peak the window is the ramp or its mirror image. -/
theorem windowIsBartlett : Obligations.WindowIsBartlett := by
  refine ⟨fun h hh => ⟨fun n hn => ?_, ?_⟩, fun h hh => ⟨fun n hn => ?_, ?_, ?_⟩, fun l n _ hn =>
    ⟨(windowValue_mirror hn).symm, windowValue_le hn⟩⟩
  · have hhalf := windowHalf_odd h
    rw [windowValue_ramp (by unfold IsWindowPeak; omega) (by omega), windowInc, hhalf, if_pos (by omega)]
  · exact windowValue_peak (.inl (windowHalf_odd h).symm)
  · have hhalf := windowHalf_even h
    rw [windowValue_ramp (by unfold IsWindowPeak; omega) (by omega), windowInc, if_neg (by omega)]
  · exact windowValue_peak (.inr ⟨by omega, by rw [windowHalf_even]; omega⟩)
  · exact windowValue_peak (.inl (windowHalf_even h).symm)

/-! ### The passes -/

/-- Pass `j` meets the loop's condition exactly if another whole analysis shift fits into the frame after it. -/
theorem pass_meets_bound_iff {n sa j : Nat} (hsa : 1 ≤ sa) :
    (j : Int) * sa - 1 ≤ (n : Int) - sa - 1 ↔ j < n / sa := by
  rw [← Nat.succ_le_iff, Nat.le_div_iff_mul_le hsa, Nat.succ_mul]
  zify
  omega

/-- The overlap-add's first `j` passes. -/
def overlapPasses (n : Nat) (p : Shift) (j : Nat) (m : Memory) : Memory :=
  forUp j (fun i m => overlapPass n (p.s + p.sh) ((i : Int) * p.s - 1) (i * p.ss) m) m

/-- The loop entered at pass `j` leaves what all the counted passes leave, if its fuel covers the passes that remain. -/
theorem overlapLoop_from_pass {n sa ss : Nat} (hsa : 1 ≤ sa) (m : Memory) (fuel : Nat) : ∀ j, j ≤ n / sa → n / sa < j + fuel →
    overlapLoop n (shiftOf sa ss n) fuel ((j : Int) * sa - 1) (j * ss) (overlapPasses n (shiftOf sa ss n) j m) =
      overlapAdd n (shiftOf sa ss n) m := by
  induction fuel with
  | zero => omega
  | succ fuel ih =>
    intro j hj hfuel
    rw [overlapLoop]
    split_ifs with h
    · have hlt := (pass_meets_bound_iff hsa).mp h
      have hnext := ih (j + 1) hlt (by omega)
      rw [Nat.cast_succ, Int.add_mul, Int.one_mul, add_sub_right_comm, Nat.succ_mul] at hnext
      exact hnext
    · obtain rfl : j = n / sa := by
        have := mt (pass_meets_bound_iff hsa).mpr h
        omega
      rfl

/-- Settles O59: the loop entered at pass 0, and the condition on its analysis index. -/
theorem passesMatchTheLoopBound : Obligations.PassesMatchTheLoopBound := by
  intro n sa ss fuel m hsa hfuel
  have hk : n / sa < 0 + fuel := by have := Nat.div_le_self n sa; omega
  have hloop := overlapLoop_from_pass (ss := ss) hsa m fuel 0 (Nat.zero_le _) hk
  rw [Nat.cast_zero, Int.zero_mul, Nat.zero_mul] at hloop
  exact ⟨hloop.symm, fun j => (pass_meets_bound_iff hsa).symm⟩

end Sys2Proof.Machine
end

section
/-! PROOFS. The bytes and elements of the buffers under the shifter's loops: the bytes that no stage of SHF_CORRECT writes, and
what a build's elements read after a clear, a fill and a copy (20_memory.md R45; 43_pitch_shifter.md R112, R142). -/

namespace Sys2Proof.Machine

/-! ### The bytes SHF_CORRECT does not write -/

/-- A byte outside every element that SHF_CORRECT writes (43_pitch_shifter.md R112). -/
structure OutsideCorrection (n l a : Nat) : Prop where
  frame : ∀ j < n, ¬ByteOf .frame j a
  hist : ∀ j < 2 * n, ¬ByteOf .hist j a
  acc : ∀ j < 2 * n, ¬ByteOf .acc j a
  win : ∀ j < l, ¬ByteOf .win j a

theorem byteAt_writeElem_of_not_byteOf {b : Buf} {i a : Nat} (h : ¬ByteOf b i a) (v : Sample) (m : Memory) :
    (writeElem b i v m).byteAt a = m.byteAt a := byteAt_writeElem_of_ne (not_or.mp h).1 (not_or.mp h).2

theorem byteAt_slideHistory {n l a : Nat} (h : OutsideCorrection n l a) (m : Memory) :
    (slideHistory n m).byteAt a = m.byteAt a :=
  (byteAt_copyElems_of_outside fun i hi => not_or.mp (h.hist (n + i) (by omega))).trans
    (byteAt_copyElems_of_outside fun i hi => not_or.mp (h.hist (0 + i) (by omega)))

theorem byteAt_buildWindow {n l a : Nat} (h : OutsideCorrection n l a) (m : Memory) :
    (buildWindow l m).byteAt a = m.byteAt a :=
  forUp_keeps (P := fun m' => Memory.byteAt m' a = Memory.byteAt m a) rfl fun i _ hi hm =>
    (byteAt_writeElem_of_not_byteOf (h.win i hi) _ _).trans hm

theorem byteAt_overlapAdd {n l a : Nat} {q : Shift} (h : OutsideCorrection n l a) (hacc : lastAccIndex q < 2 * n)
    (m : Memory) : (overlapAdd n q m).byteAt a = m.byteAt a := by
  refine forUp_keeps (P := fun m' => Memory.byteAt m' a = Memory.byteAt m a) rfl fun j _ hj hm => ?_
  refine forUp_keeps (P := fun m' => Memory.byteAt m' a = Memory.byteAt m a) hm fun i m' hi hm' => ?_
  have hindex := pass_index_le_lastAccIndex hj hi
  unfold accumulate
  split_ifs
  · exact (byteAt_writeElem_of_not_byteOf (h.acc _ (by omega)) _ _).trans hm'
  · exact hm'

theorem byteAt_writeBack {n l a : Nat} (h : OutsideCorrection n l a) (m : Memory) :
    (writeBack n m).byteAt a = m.byteAt a := by
  rw [writeBack, byteAt_clearElems, if_neg fun ⟨i, hi, hbyte⟩ => h.acc i (by omega) hbyte]
  exact byteAt_copyElems_of_outside fun i hi => not_or.mp (h.frame (0 + i) (by omega))

/-- Settles O54: none of the four stages writes the byte. -/
theorem shfCorrectKeepsOtherBytes : Obligations.ShfCorrectKeepsOtherBytes := by
  intro s t p hf hcheck hexec a hframe hbufs hwin
  have houtside : OutsideCorrection s.shfN.toNat p.l a :=
    ⟨hframe, fun j hj => (hbufs j hj).1, fun j hj => (hbufs j hj).2, hwin⟩
  obtain ⟨-, -, -, -, -, -, -, -, -, -, -, hacc⟩ := shiftChecks_ok hcheck
  rw [exec_shfCorrect_of_ok hf hcheck] at hexec
  cases hexec
  rw [setRes_mem, setMem_mem, correctFrame, byteAt_writeBack houtside, byteAt_overlapAdd houtside hacc,
    byteAt_buildWindow houtside, byteAt_slideHistory houtside]

/-! ### Elements of a build's buffers -/

/-- The buffers' regions do not overlap, so an address belongs to one element. -/
theorem elemAddr_inj {p : Params} (hp : p.maxWindow ≤ 2048) {b c : Buf} {i j : Nat} (hi : i < b.length p)
    (hj : j < c.length p) : elemAddr c j = elemAddr b i ↔ c = b ∧ j = i := by
  constructor
  · intro h
    have hfound := elemAtAddr_elemAddr hp hj
    rw [h, elemAtAddr_elemAddr hp hi] at hfound
    cases hfound
    exact ⟨rfl, rfl⟩
  · rintro ⟨rfl, rfl⟩
    rfl

theorem readElem_writeElem_of_lt {p : Params} (hp : p.maxWindow ≤ 2048) {b c : Buf} {i j : Nat} (hi : i < b.length p)
    (hj : j < c.length p) {m : Memory} (hm : m.wf) (v : Sample) :
    readElem (writeElem b i v m) c j = if c = b ∧ j = i then v else readElem m c j := by
  simp only [readElem_writeElem hm, elemAddr_inj hp hi hj]

/-- An element's two bytes belong to no element at another address. -/
theorem byteOf_elemAddr_iff {b c : Buf} {i j : Nat} :
    (ByteOf b i (elemAddr c j) ↔ elemAddr c j = elemAddr b i) ∧
      (ByteOf b i (elemAddr c j + 1) ↔ elemAddr c j = elemAddr b i) := by
  have hb := elemAddr_even b i
  have hc := elemAddr_even c j
  unfold ByteOf
  omega

theorem readElem_clearElems {p : Params} (hp : p.maxWindow ≤ 2048) {b c : Buf} {k j : Nat} (hk : k ≤ b.length p)
    (hj : j < c.length p) (m : Memory) :
    readElem (clearElems b k m) c j = if c = b ∧ j < k then 0 else readElem m c j := by
  have hcleared : (∃ i < k, elemAddr c j = elemAddr b i) ↔ c = b ∧ j < k := by
    constructor
    · rintro ⟨i, hi, haddr⟩
      obtain ⟨rfl, rfl⟩ := (elemAddr_inj hp (hi.trans_le hk) hj).mp haddr
      exact ⟨rfl, hi⟩
    · rintro ⟨rfl, hjk⟩
      exact ⟨j, hjk, rfl⟩
  simp only [readElem, byteAt_clearElems, byteOf_elemAddr_iff.1, byteOf_elemAddr_iff.2, hcleared]
  split_ifs <;> rfl

/-! ### Filling a range of a buffer -/

/-- `for i = 0 to n-1: BUF[d + i] <- v i`, with values fixed before the loop. -/
def fillElems (b : Buf) (d n : Nat) (v : Nat → Sample) (m : Memory) : Memory :=
  forUp n (fun i m => writeElem b (d + i) (v i) m) m

theorem fillElems_wf {b : Buf} {d n : Nat} {v : Nat → Sample} {m : Memory} (hm : m.wf) : (fillElems b d n v m).wf :=
  forUp_keeps hm fun _ _ _ hx => writeElem_wf _ _ _ hx

theorem readElem_fillElems {p : Params} (hp : p.maxWindow ≤ 2048) {b c : Buf} {d n j : Nat} (hfit : d + n ≤ b.length p)
    (hj : j < c.length p) (v : Nat → Sample) {m : Memory} (hm : m.wf) :
    readElem (fillElems b d n v m) c j = if c = b ∧ d ≤ j ∧ j < d + n then v (j - d) else readElem m c j := by
  induction n with
  | zero => rw [if_neg (by omega)]; rfl
  | succ n ih =>
    have hfill : fillElems b d (n + 1) v m = writeElem b (d + n) (v n) (fillElems b d n v m) := rfl
    rw [hfill, readElem_writeElem_of_lt hp (by omega) hj (fillElems_wf hm), ih (by omega)]
    by_cases hlast : c = b ∧ j = d + n
    · rw [if_pos hlast, if_pos ⟨hlast.1, by omega, by omega⟩, hlast.2, Nat.add_sub_cancel_left]
    · have hrange : (c = b ∧ d ≤ j ∧ j < d + (n + 1)) ↔ (c = b ∧ d ≤ j ∧ j < d + n) := by
        refine and_congr_right fun hcb => ?_
        have : j ≠ d + n := fun hj => hlast ⟨hcb, hj⟩
        omega
      simp only [if_neg hlast, hrange]

/-- A copy whose source lies outside its destination is a fill with the source as it was. -/
theorem copyElems_eq_fillElems {p : Params} (hp : p.maxWindow ≤ 2048) {d sb : Buf} {dj sj n : Nat}
    (hd : dj + n ≤ d.length p) (hs : sj + n ≤ sb.length p) (hapart : sb ≠ d ∨ dj + n ≤ sj) {m : Memory} (hm : m.wf) :
    copyElems d dj sb sj n m = fillElems d dj n (fun i => readElem m sb (sj + i)) m := by
  induction n with
  | zero => rfl
  | succ n ih =>
    have hcopy : copyElems d dj sb sj (n + 1) m =
        writeElem d (dj + n) (readElem (copyElems d dj sb sj n m) sb (sj + n)) (copyElems d dj sb sj n m) := rfl
    have hsource (v : Nat → Sample) : readElem (fillElems d dj n v m) sb (sj + n) = readElem m sb (sj + n) := by
      rw [readElem_fillElems hp (by omega) (by omega) v hm, if_neg]
      rintro ⟨rfl, -, hlt⟩
      rcases hapart with hne | hle
      · exact hne rfl
      · omega
    rw [hcopy, ih (by omega) (by omega) (hapart.imp_right (by omega)), hsource]
    rfl

theorem readElem_copyElems {p : Params} (hp : p.maxWindow ≤ 2048) {d sb c : Buf} {dj sj n j : Nat}
    (hd : dj + n ≤ d.length p) (hs : sj + n ≤ sb.length p) (hapart : sb ≠ d ∨ dj + n ≤ sj) (hj : j < c.length p)
    {m : Memory} (hm : m.wf) :
    readElem (copyElems d dj sb sj n m) c j =
      if c = d ∧ dj ≤ j ∧ j < dj + n then readElem m sb (sj + (j - dj)) else readElem m c j := by
  rw [copyElems_eq_fillElems hp hd hs hapart hm, readElem_fillElems hp hd hj _ hm]

theorem buildWindow_eq_fillElems (l : Nat) (m : Memory) :
    buildWindow l m = fillElems .win 0 l (fun i => bits16 (windowValue l i)) m := by
  simp only [buildWindow, fillElems, Nat.zero_add]

end Sys2Proof.Machine
end

section
/-! PROOFS. The overlap-add as a sum: each pass adds the windowed history to the accumulator modulo 2^16 and changes nothing
else, so the loop adds R117's double sum (43_pitch_shifter.md R117). -/

namespace Sys2Proof.Machine

/-! ### Samples -/

theorem toInt_bits16 (z : Int) : (bits16 z).toInt = wrap16 z := by rw [bits16, BitVec.toInt_ofInt, wrap16_eq_bmod]

theorem bits16_add (y z : Int) : bits16 (y + z) = bits16 y + bits16 z := BitVec.ofInt_add y z

theorem bits16_toInt (v : Sample) : bits16 v.toInt = v := BitVec.ofInt_toInt

theorem toInt_add_bits16 (v : Sample) (z : Int) : (v + bits16 z).toInt = wrap16 (v.toInt + z) := by
  rw [← toInt_bits16, bits16_add, bits16_toInt]

/-- The wrapped sum of a sample and an integer is the sum of their patterns. -/
theorem bits16_q15addw (v : Sample) (z : Int) : bits16 (q15addw v.toInt z) = v + bits16 z := by
  rw [q15addw, bits16_wrap16, bits16_add, bits16_toInt]

/-! ### The overlap-add -/

/-- `m'` is `m` with `f j` added to each accumulator element `j`, and no other element changed. -/
structure AddedToAcc (p : Params) (m m' : Memory) (f : Nat → Int) : Prop where
  wf : m.wf → m'.wf
  acc : ∀ j < Buf.length p .acc, readElem m' .acc j = readElem m .acc j + bits16 (f j)
  other : ∀ c ≠ Buf.acc, ∀ j < c.length p, readElem m' c j = readElem m c j

theorem AddedToAcc.refl (p : Params) (m : Memory) : AddedToAcc p m m fun _ => 0 where
  wf := id
  acc _ _ := (BitVec.add_zero _).symm
  other _ _ _ _ := rfl

theorem AddedToAcc.trans {p : Params} {m m' m'' : Memory} {f g : Nat → Int} (h : AddedToAcc p m m' f)
    (h' : AddedToAcc p m' m'' g) : AddedToAcc p m m'' fun j => f j + g j where
  wf := h'.wf ∘ h.wf
  acc j hj := by rw [h'.acc j hj, h.acc j hj, bits16_add, BitVec.add_assoc]
  other c hc j hj := (h'.other c hc j hj).trans (h.other c hc j hj)

/-- A loop whose passes each add to the accumulator adds the sum of what they add. -/
theorem AddedToAcc.forUp {p : Params} {m : Memory} {body : Nat → Memory → Memory} {f : Nat → Nat → Int} {n : Nat}
    (h : ∀ i < n, ∀ x g, AddedToAcc p m x g → AddedToAcc p x (body i x) (f i)) :
    AddedToAcc p m (forUp n body m) fun j => ∑ i ∈ Finset.range n, f i j := by
  induction n with
  | zero => exact .refl p m
  | succ n ih =>
    have hpasses := ih fun i hi => h i (hi.trans n.lt_succ_self)
    simp only [Finset.sum_range_succ]
    exact hpasses.trans (h n n.lt_succ_self _ _ hpasses)

/-- What sample `i` of the pass at analysis index `a` and synthesis index `si` adds at synthesis index `j`, for a history `h`
and a window `w` (43_pitch_shifter.md R117). -/
def passTerm (n : Nat) (h w : Nat → Int) (a : Int) (si i j : Nat) : Int :=
  if si + i = j ∧ 0 ≤ a + i ∧ a + i < 2 * n then q15mul (h (a + i).toNat) (w i) else 0

/-- A configuration and parameters for which the checks bound every index (43_pitch_shifter.md R114). -/
structure ShiftFits (p : Params) (n : Nat) (q : Shift) : Prop where
  window_le : p.maxWindow ≤ 2048
  n_le : n ≤ p.maxWindow
  block_lt : q.s + q.sh < q.l
  l_le : q.l ≤ n
  acc_lt : lastAccIndex q < 2 * n

theorem accumulate_added {p : Params} {n : Nat} {q : Shift} {m x : Memory} {g : Nat → Int} (hfits : ShiftFits p n q)
    (hm : m.wf) (hx : AddedToAcc p m x g) {a : Int} {si i : Nat} (hi : i < q.s + q.sh) (hindex : si + i < 2 * n) :
    AddedToAcc p x (accumulate n a si i x) (passTerm n (sampleAt m .hist) (sampleAt m .win) a si i) := by
  obtain ⟨hp, hn, hblock, hl, -⟩ := hfits
  unfold accumulate passTerm
  split_ifs with hskip
  · have hacc : si + i < Buf.length p .acc := by simp only [Buf.length]; omega
    have hhist : sampleAt x .hist (a + i).toNat = sampleAt m .hist (a + i).toNat :=
      congrArg BitVec.toInt (hx.other .hist (by decide) _ (by simp only [Buf.length]; omega))
    have hwin : sampleAt x .win i = sampleAt m .win i :=
      congrArg BitVec.toInt (hx.other .win (by decide) _ (by simp only [Buf.length]; omega))
    rw [hhist, hwin, sampleAt, bits16_q15addw]
    refine ⟨writeElem_wf _ _ _, fun j hj => ?_, fun c hc j hj => ?_⟩
    · rw [readElem_writeElem_of_lt hp hacc hj (hx.wf hm)]
      by_cases hij : si + i = j
      · subst hij
        simp only [hskip, and_self, if_true]
      · rw [if_neg fun h => hij h.2.symm, if_neg fun h => hij h.1]
        exact (BitVec.add_zero _).symm
    · rw [readElem_writeElem_of_lt hp hacc hj (hx.wf hm), if_neg fun h => hc h.1]
  · simpa only [hskip, and_false, if_false] using AddedToAcc.refl p x

theorem overlapPass_added {p : Params} {n : Nat} {q : Shift} {m x : Memory} {g : Nat → Int} (hfits : ShiftFits p n q)
    (hm : m.wf) (hx : AddedToAcc p m x g) {j : Nat} (hj : j < q.k) (a : Int) :
    AddedToAcc p x (overlapPass n (q.s + q.sh) a (j * q.ss) x) fun t =>
      ∑ i ∈ Finset.range (q.s + q.sh), passTerm n (sampleAt m .hist) (sampleAt m .win) a (j * q.ss) i t :=
  .forUp fun _ hi _ _ hy =>
    accumulate_added hfits hm (hx.trans hy) hi ((pass_index_le_lastAccIndex hj hi).trans_lt hfits.acc_lt)

theorem sum_passTerm_eq_overlapSum (n : Nat) (q : Shift) (h w : Nat → Int) (t : Nat) :
    ∑ j ∈ Finset.range q.k, ∑ i ∈ Finset.range (q.s + q.sh),
      passTerm n h w ((j : Int) * q.s - 1) (j * q.ss) i t = overlapSum n q h w t := by
  refine Finset.sum_congr rfl fun j _ => Finset.sum_congr rfl fun i _ => ?_
  have hcast : (j : Int) * q.s = (j * q.s : Nat) := (Nat.cast_mul _ _).symm
  have hindex : ((j * q.s : Nat) - 1 + i : Int).toNat = j * q.s + i - 1 := by omega
  have hskip : (0 ≤ ((j * q.s : Nat) - 1 + i : Int) ∧ ((j * q.s : Nat) - 1 + i : Int) < 2 * n) ↔
      1 ≤ j * q.s + i ∧ j * q.s + i - 1 < 2 * n := by omega
  simp only [passTerm, hcast, hindex, hskip]

/-- The overlap-add adds R117's sum at each synthesis index. -/
theorem overlapAdd_added {p : Params} {n : Nat} {q : Shift} {m : Memory} (hfits : ShiftFits p n q) (hm : m.wf) :
    AddedToAcc p m (overlapAdd n q m) (overlapSum n q (sampleAt m .hist) (sampleAt m .win)) := by
  have hadded : AddedToAcc p m (overlapAdd n q m) _ := .forUp fun j hj _ _ hx =>
    overlapPass_added hfits hm hx hj ((j : Int) * q.s - 1)
  simpa only [sum_passTerm_eq_overlapSum] using hadded

/-- The sum reads the history below `2 * n` and the window below the block's length only. -/
theorem overlapSum_congr {n : Nat} {q : Shift} {h h' w w' : Nat → Int} (hh : ∀ j < 2 * n, h j = h' j)
    (hw : ∀ i < q.s + q.sh, w i = w' i) : overlapSum n q h w = overlapSum n q h' w' := by
  funext t
  refine Finset.sum_congr rfl fun k _ => Finset.sum_congr rfl fun i hi => ?_
  split_ifs with hskip
  · rw [hh _ hskip.2.2, hw i (Finset.mem_range.mp hi)]
  · rfl

/-! ### The stages of SHF_CORRECT -/

end Sys2Proof.Machine
end

section
/-! PROOFS. SHF_CORRECT's buffers: what each stage leaves in each buffer, what the command leaves in all four, and the frames
its output depends on (43_pitch_shifter.md R112, R115 to R120). -/

namespace Sys2Proof.Machine

/-! ### The stages of SHF_CORRECT -/

theorem readElem_slideHistory {p : Params} {n : Nat} (hp : p.maxWindow ≤ 2048) (hn : n ≤ p.maxWindow) {m : Memory}
    (hm : m.wf) {c : Buf} {j : Nat} (hj : j < c.length p) :
    readElem (slideHistory n m) c j =
      if c = .hist ∧ j < 2 * n then (if j < n then readElem m .hist (n + j) else readElem m .frame (j - n))
      else readElem m c j := by
  have hframe : 0 + n ≤ Buf.length p .frame := by simp only [Buf.length]; omega
  have hhist : n + n ≤ Buf.length p .hist := by simp only [Buf.length]; omega
  have holder {c : Buf} {j : Nat} (hj : j < c.length p) := readElem_copyElems (d := .hist) (dj := 0) (sb := .hist)
    (sj := n) hp (by omega) hhist (.inr (Nat.zero_add n).le) hj hm
  have hnewer := readElem_copyElems (sj := 0) hp hhist hframe (.inl (by decide : Buf.frame ≠ .hist)) hj
    (copyElems_wf .hist 0 .hist n n hm)
  rw [slideHistory, hnewer]
  by_cases hc : c = .hist
  · subst hc
    rcases Nat.lt_or_ge j n with hlt | hge
    · rw [if_neg (by omega), holder hj, if_pos ⟨rfl, Nat.zero_le j, by omega⟩, if_pos ⟨rfl, by omega⟩, if_pos hlt]
      rfl
    · by_cases hlt : j < 2 * n
      · rw [if_pos ⟨rfl, hge, by omega⟩, holder (by omega), if_neg (by simp), if_pos ⟨rfl, hlt⟩, if_neg hge.not_gt,
          Nat.zero_add]
      · rw [if_neg (by omega), holder hj, if_neg (by omega), if_neg (by omega)]
  · rw [if_neg fun h => hc h.1, if_neg fun h => hc h.1, holder hj, if_neg fun h => hc h.1]

theorem sampleAt_slideHistory {p : Params} {n : Nat} (hp : p.maxWindow ≤ 2048) (hn : n ≤ p.maxWindow) {m : Memory}
    (hm : m.wf) {j : Nat} (hj : j < 2 * n) : sampleAt (slideHistory n m) .hist j = slidHistory n m j := by
  rw [sampleAt, readElem_slideHistory hp hn hm (by simp only [Buf.length]; omega), if_pos ⟨rfl, hj⟩, slidHistory]
  split_ifs <;> rfl

theorem readElem_buildWindow {p : Params} {l : Nat} (hp : p.maxWindow ≤ 2048) (hl : l ≤ p.maxWindow) {m : Memory}
    (hm : m.wf) {c : Buf} {j : Nat} (hj : j < c.length p) :
    readElem (buildWindow l m) c j = if c = .win ∧ j < l then bits16 (windowValue l j) else readElem m c j := by
  have hfit : 0 + l ≤ Buf.length p .win := by simp only [Buf.length]; omega
  rw [buildWindow_eq_fillElems, readElem_fillElems hp hfit hj _ hm]
  simp only [Nat.zero_le, true_and, Nat.zero_add, Nat.sub_zero]

/-- A window sample is in the range of a sample, so its pattern holds it. -/
theorem toInt_bits16_windowValue {l i : Nat} (hi : i < l) : (bits16 (windowValue l i)).toInt = windowValue l i := by
  have hle := windowValue_le hi
  rw [toInt_bits16, wrap16_eq_self_iff]
  omega

theorem readElem_writeBack {p : Params} {n : Nat} (hp : p.maxWindow ≤ 2048) (hn : n ≤ p.maxWindow) {m : Memory}
    (hm : m.wf) {c : Buf} {j : Nat} (hj : j < c.length p) :
    readElem (writeBack n m) c j =
      if c = .acc ∧ j < n then 0 else if c = .frame ∧ j < n then readElem m .acc j else readElem m c j := by
  have hframe : 0 + n ≤ Buf.length p .frame := by simp only [Buf.length]; omega
  have hacc : 0 + n ≤ Buf.length p .acc := by simp only [Buf.length]; omega
  rw [writeBack, readElem_clearElems hp (by omega) hj,
    readElem_copyElems hp hframe hacc (.inl (by decide : Buf.acc ≠ .frame)) hj hm]
  simp only [Nat.zero_le, true_and, Nat.zero_add, Nat.sub_zero]

/-! ### The buffers after SHF_CORRECT -/

section
variable {p : Params} {n : Nat} {q : Shift} {m : Memory}

/-- The slid history and the window, before the overlap-add. -/
def preparedBuffers (n : Nat) (q : Shift) (m : Memory) : Memory := buildWindow q.l (slideHistory n m)

theorem preparedBuffers_wf (hm : m.wf) : (preparedBuffers n q m).wf := buildWindow_wf _ (slideHistory_wf _ hm)

theorem readElem_preparedBuffers (hfits : ShiftFits p n q) (hm : m.wf) {c : Buf} (hc : c ≠ .win) {j : Nat}
    (hj : j < c.length p) : readElem (preparedBuffers n q m) c j = readElem (slideHistory n m) c j := by
  rw [preparedBuffers, readElem_buildWindow hfits.window_le (hfits.l_le.trans hfits.n_le) (slideHistory_wf _ hm) hj,
    if_neg fun h => hc h.1]

theorem sampleAt_preparedBuffers_win (hfits : ShiftFits p n q) (hm : m.wf) {i : Nat} (hi : i < q.l) :
    sampleAt (preparedBuffers n q m) .win i = windowValue q.l i := by
  have hl := hfits.l_le.trans hfits.n_le
  have hwin : i < Buf.length p .win := hi.trans_le hl
  rw [sampleAt, preparedBuffers, readElem_buildWindow hfits.window_le hl (slideHistory_wf _ hm) hwin,
    if_pos ⟨rfl, hi⟩, toInt_bits16_windowValue hi]

theorem sampleAt_preparedBuffers_hist (hfits : ShiftFits p n q) (hm : m.wf) {j : Nat} (hj : j < 2 * n) :
    sampleAt (preparedBuffers n q m) .hist j = slidHistory n m j := by
  have hn := hfits.n_le
  rw [← sampleAt_slideHistory hfits.window_le hn hm hj, sampleAt,
    readElem_preparedBuffers hfits hm (by decide) (by simp only [Buf.length]; omega), sampleAt]

/-- The sum that one SHF_CORRECT adds at each synthesis index (43_pitch_shifter.md R115 to R117). -/
def correctionSum (n : Nat) (q : Shift) (m : Memory) : Nat → Int :=
  overlapSum n q (slidHistory n m) fun i => windowValue q.l i

theorem overlapAdd_preparedBuffers (hfits : ShiftFits p n q) (hm : m.wf) :
    AddedToAcc p (preparedBuffers n q m) (overlapAdd n q (preparedBuffers n q m)) (correctionSum n q m) := by
  have hsum : overlapSum n q (sampleAt (preparedBuffers n q m) .hist) (sampleAt (preparedBuffers n q m) .win) =
      correctionSum n q m :=
    overlapSum_congr (fun _ hj => sampleAt_preparedBuffers_hist hfits hm hj) fun _ hi =>
      sampleAt_preparedBuffers_win hfits hm (hi.trans hfits.block_lt)
  exact hsum ▸ overlapAdd_added hfits (preparedBuffers_wf hm)

theorem correctFrame_eq (n : Nat) (q : Shift) (m : Memory) :
    correctFrame n q m = writeBack n (overlapAdd n q (preparedBuffers n q m)) := rfl

/-- FRAME takes the accumulator's head with the sum added. -/
theorem readElem_correctFrame_frame (hfits : ShiftFits p n q) (hm : m.wf) {j : Nat} (hj : j < n) :
    readElem (correctFrame n q m) .frame j = readElem m .acc j + bits16 (correctionSum n q m j) := by
  have hp := hfits.window_le
  have hn := hfits.n_le
  have hframe : j < Buf.length p .frame := hj.trans_le hn
  have hacc : j < Buf.length p .acc := by simp only [Buf.length]; omega
  rw [correctFrame_eq, readElem_writeBack hp hn (overlapAdd_wf _ _ (preparedBuffers_wf hm)) hframe,
    if_neg (by simp), if_pos ⟨rfl, hj⟩, (overlapAdd_preparedBuffers hfits hm).acc j hacc,
    readElem_preparedBuffers hfits hm (by decide) hacc, readElem_slideHistory hp hn hm hacc, if_neg (by simp)]

/-- The accumulator's tail has the sum added. -/
theorem readElem_correctFrame_acc (hfits : ShiftFits p n q) (hm : m.wf) {j : Nat} (hlo : n ≤ j) (hhi : j < 2 * n) :
    readElem (correctFrame n q m) .acc j = readElem m .acc j + bits16 (correctionSum n q m j) := by
  have hp := hfits.window_le
  have hn := hfits.n_le
  have hacc : j < Buf.length p .acc := by simp only [Buf.length]; omega
  rw [correctFrame_eq, readElem_writeBack hp hn (overlapAdd_wf _ _ (preparedBuffers_wf hm)) hacc, if_neg (by omega),
    if_neg (by simp), (overlapAdd_preparedBuffers hfits hm).acc j hacc,
    readElem_preparedBuffers hfits hm (by decide) hacc, readElem_slideHistory hp hn hm hacc, if_neg (by simp)]

/-- HIST and WIN are as they were prepared. -/
theorem readElem_correctFrame_of_ne (hfits : ShiftFits p n q) (hm : m.wf) {c : Buf} (hframe : c ≠ .frame)
    (hacc : c ≠ .acc) {j : Nat} (hj : j < c.length p) :
    readElem (correctFrame n q m) c j = readElem (preparedBuffers n q m) c j := by
  rw [correctFrame_eq,
    readElem_writeBack hfits.window_le hfits.n_le (overlapAdd_wf _ _ (preparedBuffers_wf hm)) hj,
    if_neg fun h => hacc h.1, if_neg fun h => hframe h.1, (overlapAdd_preparedBuffers hfits hm).other c hacc j hj]

theorem readElem_correctFrame_hist (hfits : ShiftFits p n q) (hm : m.wf) {j : Nat} (hj : j < 2 * n) :
    readElem (correctFrame n q m) .hist j = if j < n then readElem m .hist (n + j) else readElem m .frame (j - n) := by
  have hn := hfits.n_le
  have hhist : j < Buf.length p .hist := by simp only [Buf.length]; omega
  rw [readElem_correctFrame_of_ne hfits hm (by decide) (by decide) hhist,
    readElem_preparedBuffers hfits hm (by decide) hhist, readElem_slideHistory hfits.window_le hn hm hhist,
    if_pos ⟨rfl, hj⟩]

theorem sampleAt_correctFrame_win (hfits : ShiftFits p n q) (hm : m.wf) {i : Nat} (hi : i < q.l) :
    sampleAt (correctFrame n q m) .win i = windowValue q.l i := by
  have hwin : i < Buf.length p .win := hi.trans_le (hfits.l_le.trans hfits.n_le)
  rw [← sampleAt_preparedBuffers_win hfits hm hi, sampleAt, sampleAt,
    readElem_correctFrame_of_ne hfits hm (by decide) (by decide) hwin]

end

/-! ### The output -/

/-- In a state of the invariant, checks that pass bound every index. -/
theorem shiftFits_of_checks {s : State} {p : Shift} (hinv : Inv s) (hcheck : shiftChecks s = .ok p) :
    ShiftFits s.params s.shfN.toNat p := by
  obtain ⟨hcfg, -, -, -, -, -, -, -, hp, hl, -, hacc⟩ := shiftChecks_ok hcheck
  obtain ⟨-, -, hmax⟩ := ranges_of_legal hinv.params_legal
  have hsh : p.sh = halfShift p.s := congrArg Shift.sh hp
  have hlen : p.l = windowLength p.s := congrArg Shift.l hp
  exact ⟨hmax, (hinv.shf_configured hcfg).2, by rw [hsh, hlen]; exact Nat.lt_succ_self _, hl, hacc⟩

/-- The accumulator's head is 0 between calls, so FRAME takes the sum itself (43_pitch_shifter.md R118, R120). -/
theorem sampleAt_frame_of_checks {s : State} {p : Shift} (hinv : Inv s) (hcheck : shiftChecks s = .ok p) {j : Nat}
    (hj : j < s.shfN.toNat) :
    sampleAt (correctFrame s.shfN.toNat p s.mem) .frame j = wrap16 (correctionSum s.shfN.toNat p s.mem j) := by
  obtain ⟨hcfg, -⟩ := shiftChecks_ok hcheck
  rw [sampleAt, readElem_correctFrame_frame (shiftFits_of_checks hinv hcheck) hinv.mem_canonical hj,
    hinv.acc_head hcfg j hj, toInt_add_bits16]
  exact congrArg wrap16 (zero_add _)

/-- Settles O53: each buffer after the command, stage by stage. -/
theorem shfCorrectOverlapAdds : Obligations.ShfCorrectOverlapAdds := by
  intro s p hinv hf hcheck
  have hfits := shiftFits_of_checks hinv hcheck
  have hm := hinv.mem_canonical
  refine ⟨_, exec_shfCorrect_of_ok hf hcheck, rfl, fun j hj => sampleAt_frame_of_checks hinv hcheck hj,
    fun j hj => ⟨?_, ?_⟩, fun i hi => sampleAt_correctFrame_win hfits hm hi, fun j hj => ⟨acc_correctFrame hj p s.mem, ?_⟩⟩
  · exact (readElem_correctFrame_hist hfits hm (by omega)).trans (if_pos hj)
  · have hnew := readElem_correctFrame_hist hfits hm (j := s.shfN.toNat + j) (by omega)
    rwa [if_neg (by omega), Nat.add_sub_cancel_left] at hnew
  · have htail := readElem_correctFrame_acc hfits hm (Nat.le_add_right _ j) (by omega)
    exact (congrArg BitVec.toInt htail).trans (toInt_add_bits16 _ _)

/-- The history a call analyses is the previous frame and this one. -/
theorem slidHistory_congr {n : Nat} {m m' : Memory}
    (h : ∀ j < n, readElem m' .frame j = readElem m .frame j ∧ readElem m' .hist (n + j) = readElem m .hist (n + j))
    {j : Nat} (hj : j < 2 * n) : slidHistory n m' j = slidHistory n m j := by
  unfold slidHistory sampleAt
  split_ifs with hlt
  · rw [(h j hlt).2]
  · rw [(h (j - n) (by omega)).1]

/-- Settles O55: both outputs are the sum over the same analysed history. -/
theorem outputDependsOnTwoFrames : Obligations.OutputDependsOnTwoFrames := by
  intro s u p hs hu hfs hfu hcs hcu hn hsame
  refine ⟨_, _, exec_shfCorrect_of_ok hfs hcs, exec_shfCorrect_of_ok hfu hcu, rfl, fun j hj => ?_⟩
  have hsum : correctionSum u.shfN.toNat p u.mem = correctionSum s.shfN.toNat p s.mem := by
    rw [hn]
    exact overlapSum_congr (fun i hi => slidHistory_congr hsame hi) fun _ _ => rfl
  have hout := sampleAt_frame_of_checks hu hcu (hn.symm ▸ hj)
  rw [hsum, ← sampleAt_frame_of_checks hs hcs hj] at hout
  exact BitVec.eq_of_toInt_eq hout

end Sys2Proof.Machine
end

section
/-! PROOFS. The system commands: NOP has no effect, and SRESET has the effect of the platform's reset (44_system.md R122,
R123; 70_reset_and_hazards.md R137). -/

namespace Sys2Proof.Machine

theorem decode_encode (i : Instr) : decode (encode i) = some i := (decodeInvertsEncode _ i).mpr rfl

/-- FAULTED or not, NOP answers the state it is given. -/
theorem exec_nop (s : State) : exec .nop s = .next s := by
  cases hfault : s.status.fault with
  | true => exact unlessFaulted_of_faulted hfault
  | false => exact unlessFaulted_of_running hfault

/-- Settles O22: the word 0 is NOP's own word, and NOP's effect is `exec_nop`. -/
theorem nopChangesNothing : Obligations.NopChangesNothing := ⟨decode_encode .nop, exec_nop⟩

/-- SRESET is the one command that runs while FAULTED too (60_exceptions.md R128). -/
theorem exec_sreset (s : State) : exec .sreset s = .next (resetEvent s) := rfl

/-- The state after the reset event: the fields that reset leaves to the model are named, all others are constants. -/
theorem resetEvent_eq (s : State) :
    resetEvent s =
      { arg0 := 0, arg1 := 0, arg2 := 0, res := 0
        status := ⟨false, false, false, false, false, .none⟩
        detLevels := 0, detN := 0, shfN := 0, lastFreq := 0, lastMode := 0, heldFreq := 0, ringPtr := 0
        ring := ⟨0, 0, 0, 0, 0⟩, params := s.params, mem := []
        scratch := Config.freeScratch s.freeCount, freeCount := s.freeCount + 1, host := s.host } := rfl

/-- On a line of the platform's reset, the position moves on and the block does what SRESET does. -/
theorem step_hardReset {s : State} (hevent : NextEvent s .hardReset) : step s = exec .sreset s.advance :=
  calc step s = performEvent .hardReset s.advance := step_of_event hevent
    _ = .next (resetEvent s.advance) := rfl
    _ = exec .sreset s.advance := (exec_sreset _).symm

/-- Settles O10: SRESET's effect is `resetEvent_eq`, the platform's reset is `step_hardReset`. -/
theorem sresetResetsTheBlock : Obligations.SresetResetsTheBlock :=
  ⟨decode_encode .sreset, fun s =>
    ⟨⟨_, _, (exec_sreset s).trans (congrArg _ (resetEvent_eq s))⟩, step_hardReset⟩⟩

end Sys2Proof.Machine
end

section
/-! PROOFS. The fault state: what leaves it, what stands still in it, and what entering it writes (60_exceptions.md R126 to
R128). -/

namespace Sys2Proof.Machine

/-! ### A FAULTED block -/

/-- Every meaning but SRESET's is guarded by `unlessFaulted` (60_exceptions.md R128). -/
theorem exec_of_faulted {i : Instr} {s : State} (hfault : s.status.fault = true) (hi : i ≠ .sreset) :
    exec i s = .next s := by
  cases i with
  | sreset => exact absurd rfl hi
  | _ => exact unlessFaulted_of_faulted hfault

/-- Busy or not, and whether the word is legal or not, only SRESET's word has an effect. -/
theorem issueCommand_of_faulted {w : Word} {s : State} (hfault : s.status.fault = true) (hw : w ≠ encode .sreset) :
    issueCommand w s = .next s := by
  unfold issueCommand
  split_ifs
  · exact unlessFaulted_of_faulted hfault
  · cases hdecode : decode w with
    | none => exact unlessFaulted_of_faulted hfault
    | some i =>
      refine exec_of_faulted hfault ?_
      rintro rfl
      exact hw ((decodeInvertsEncode w .sreset).mp hdecode)

/-- Settles O5: the block after the position has moved on is still FAULTED, so it ignores every word but SRESET's, which
runs the reset event. -/
theorem faultedBlockIgnoresCommands : Obligations.FaultedBlockIgnoresCommands := by
  intro s w hfault hbusy hevent
  refine ⟨fun hw => ?_, ?_⟩
  · exact (step_cmdWrite hevent).trans (issueCommand_of_faulted (s := s.advance) hfault hw)
  · rintro rfl
    have hstep : step s = exec .sreset s.advance :=
      stepRunsDecodedCommand s _ .sreset hevent hbusy (decode_encode .sreset)
    exact ⟨resetEvent s.advance, hstep.trans (exec_sreset _), rfl⟩

/-! ### What leaves the fault state -/

theorem hostRead_status (addr n : Nat) (s : State) : (hostRead addr n s).status = s.status := by
  unfold hostRead
  split_ifs <;> rfl

theorem memWriteData_status (addr n : Nat) (v : Word) (s : State) : (memWriteData addr n v s).status = s.status := by
  rcases memWriteData_cases addr n v s with h | h | h | h | ⟨i, -, -, h⟩ <;> simp [h]

/-- A host write other than the CMD write of SRESET's word leaves STATUS of a FAULTED block as it is. -/
theorem hostWrite_status_of_faulted {addr n : Nat} {v : Word} {s t : State} (hfault : s.status.fault = true)
    (hreset : ¬(addr = regOffset .cmd ∧ n = 4 ∧ v = encode .sreset)) (h : hostWrite addr n v s = .next t) :
    t.status = s.status := by
  unfold hostWrite at h
  split_ifs at h with hcmd
  · obtain ⟨haddr, hn⟩ := hcmd
    rw [issueCommand_of_faulted hfault fun hv => hreset ⟨haddr, hn, hv⟩] at h
    cases h
    rfl
  · cases h
    rfl
  · cases h
    exact memWriteData_status addr n v s

/-- Settles O6: past the last line nothing changes, and of the host's lines only the platform's reset and the CMD write of
SRESET's word reach STATUS. -/
theorem onlyResetLeavesFaulted : Obligations.OnlyResetLeavesFaulted := by
  intro s t hfault _ hstep
  cases hevent : s.host.program[s.host.position]? with
  | none =>
    rw [step_of_end hevent] at hstep
    cases hstep
    exact .inr (.inr rfl)
  | some e =>
    rw [step_of_event hevent] at hstep
    cases e with
    | hardReset => exact .inl hevent
    | wait =>
      cases hstep
      exact .inr (.inr rfl)
    | read addr n =>
      cases hstep
      exact .inr (.inr (hostRead_status addr n s.advance))
    | write addr n v =>
      by_cases hreset : addr = regOffset .cmd ∧ n = 4 ∧ v = encode .sreset
      · obtain ⟨rfl, rfl, rfl⟩ := hreset
        exact .inr (.inl hevent)
      · exact .inr (.inr (hostWrite_status_of_faulted (s := s.advance) hfault hreset hstep))

/-! ### Fault entry -/

/-- Of the listed effects only a failed check sets FAULT. -/
theorem eq_takeFault_of_exec {i : Instr} {s t : State} (h : exec i s = .next t) (hfault : s.status.fault = false)
    (hfaulted : t.status.fault = true) : ∃ c, c ≠ .none ∧ t = takeFault c s := by
  have still_running (hkept : t.status.fault = s.status.fault) : False := by
    rw [hkept, hfault] at hfaulted
    cases hfaulted
  obtain ⟨conf, hstatus⟩ := estimate_status s.arg0.toNat s
  cases commandEffect_of_exec h with
  | faulted hnone => exact ⟨_, hnone, rfl⟩
  | estimated | estimatedHeld => exact (still_running (by simp [hstatus])).elim
  | reset => cases hfaulted
  | _ => exact (still_running rfl).elim

/-- Settles O15: the next state is `takeFault`'s, and on a block that is not busy that writes FAULT and CAUSE only. -/
theorem faultsArePrecise : Obligations.FaultsArePrecise := by
  intro i s t hbusy hfault hexec hfaulted
  obtain ⟨c, hnone, rfl⟩ := eq_takeFault_of_exec hexec hfault hfaulted
  exact ⟨takeFault_of_idle c hbusy, hnone⟩

end Sys2Proof.Machine
end
